-- ==== Sys2Proof/Word.lean ====
section
/-! DEFINITION. The word types of the Binary Codec unit: the byte, the byte sequence and the 64-bit value. -/

namespace Sys2Proof

/-- A byte is 8 bits, with a value in 0..255 when read as unsigned (R10). -/
abbrev Byte := BitVec 8

/-- The 64-bit unsigned VarInt value (R12) and the bus word `WORD[63:0]` (R94). -/
abbrev Word64 := BitVec 64

/-- A byte sequence: finite, indexed from 0, index 0 first (R10, R16).  The position in the list IS the address (R60, R77), so
two sequences with the same bytes are the same list.  DESIGN CHOICE, safe: see the assumption log, entry 3. -/
abbrev ByteSeq := List Byte

end Sys2Proof
end

