-- ==== Sys2Proof/Config.lean ====
section
/-! DEFINITION. The implementation parameters of R13, which a model takes as an argument. -/

namespace Sys2Proof

/-- How a 16-bit or 32-bit VarInt payload widens to the 64-bit value (`PAYLOAD_EXT`, R13 and R152). -/
inductive PayloadExt where
  /-- zero extension, the spec's default -/
  | zero
  /-- sign extension, the other reading the source leaves open -/
  | sign
  deriving DecidableEq, Repr

/-- The four parameters of R13.  They are fixed for one unit: no operation reads them as a register or changes them.  The model
carries them in its state, as plain data, so that a statement about every state is a statement about every choice of them.
DESIGN CHOICE, safe: see the assumption log, entry 1. -/
structure Params where
  /-- `PAYLOAD_EXT` (R152). -/
  payloadExt : PayloadExt
  /-- `P_OFFSET_BITS`: the width of `OFF` on an interface of bounded words (R98). -/
  offsetBits : Nat
  /-- `P_SIZE_BITS`: the width of `SIZE` on an interface of bounded words (R99). -/
  sizeBits : Nat
  /-- `P_MAX_LEN`: the largest sequence length the unit accepts; `none` is no limit (R77). -/
  maxLen : Option Nat
  deriving DecidableEq, Repr

/-- The defaults in R13's table.  DESIGN CHOICE (the spec's own defaults): `zero` is unsafe, the assumption log's entry 2. -/
def Params.default : Params :=
  { payloadExt := .zero, offsetBits := 32, sizeBits := 32, maxLen := none }

end Sys2Proof
end

