-- ==== Sys2Proof/Syntax.lean ====
section
/-! DEFINITION. A request as its fields (R91) and as an instruction with the operands its operation uses (R93): one constructor
per row of the operation map (R95). -/

namespace Sys2Proof

/-- A request as the host sends it: the operation select and every operand field (R91).  `off` and `size` are the integers of
the model's own reading of R91; the interface of bounded words is `WireRequest`. -/
structure Request where
  /-- `OP[3:0]`, the operation select. -/
  op : BitVec 4
  /-- `SEQ`, the borrowed byte sequence, one immutable value for the whole request (R74). -/
  seq : ByteSeq
  /-- `OFF`, the offset, which may be negative (R98). -/
  off : Int
  /-- `VAL[63:0]`, the VarInt value to encode. -/
  val : Word64
  /-- `SIZE`, the encoded size to encode, any integer (R99). -/
  size : Int
  deriving DecidableEq, Repr

/-- A request on an interface of bounded words: as `Request`, with `OFF` in `P_OFFSET_BITS` bits and `SIZE` in `P_SIZE_BITS`
bits, both two's complement (R91, R98, R99). -/
structure WireRequest (p : Params) where
  /-- `OP[3:0]`. -/
  op : BitVec 4
  /-- `SEQ`. -/
  seq : ByteSeq
  /-- `OFF`, as the interface's bits. -/
  off : BitVec p.offsetBits
  /-- `VAL[63:0]`. -/
  val : Word64
  /-- `SIZE`, as the interface's bits. -/
  size : BitVec p.sizeBits
  deriving DecidableEq, Repr

/-- One request, with the operands its operation uses and no other: "a model may leave [an ignored operand] out of the request
term for that operation" (R93). -/
inductive Instr where
  /-- OP 0x0 (R123). -/
  | readShort (seq : ByteSeq) (off : Int)
  /-- OP 0x1 (R124). -/
  | readShortReversed (seq : ByteSeq) (off : Int)
  /-- OP 0x2 (R125). -/
  | readInt (seq : ByteSeq) (off : Int)
  /-- OP 0x3 (R126). -/
  | readIntReversed (seq : ByteSeq) (off : Int)
  /-- OP 0x4 (R127). -/
  | readLong (seq : ByteSeq) (off : Int)
  /-- OP 0x5 (R128). -/
  | readLongReversed (seq : ByteSeq) (off : Int)
  /-- OP 0x6 (R157). -/
  | decodeVarInt (seq : ByteSeq) (off : Int)
  /-- OP 0x7 (R158). -/
  | decodeVarIntReversed (seq : ByteSeq) (off : Int)
  /-- OP 0x8 (R180). -/
  | encodeVarInt (val : Word64) (size : Int)
  /-- OP 0x9, the slot a reversed encoder would take: reserved (R96, R186). -/
  | reservedReversedEncoder
  /-- OP 0xA and 0xB, F = 101: reserved; `r` is OP[0] (R96). -/
  | reserved101 (r : BitVec 1)
  /-- OP 0xC to 0xF, F = 110 and 111: reserved; `x` is OP[1:0] (R96). -/
  | reserved11 (x : BitVec 2)
  deriving DecidableEq, Repr

end Sys2Proof
end

