-- ==== Sys2Proof/WellFormed.lean ====
section
/-! DEFINITION. Which requests a unit with given parameters accepts, and which its interface of bounded words can carry. -/

namespace Sys2Proof

/-- The unit accepts a sequence of this length (`P_MAX_LEN`, R13 and R77). -/
def Params.acceptsLength (p : Params) (len : Nat) : Bool :=
  match p.maxLen with
  | none => true
  | some m => decide (len ≤ m)

/-- `v` is the value of some `n`-bit two's complement word: `-2^(n-1) ≤ v < 2^(n-1)` (R14), written without the division so
that `n = 0` carries 0 alone. -/
def fitsSigned (n : Nat) (v : Int) : Bool :=
  decide (-(2 ^ n : Int) ≤ 2 * v) && decide (2 * v < (2 ^ n : Int))

/-- The sequence an operation uses, where it uses one (R93). -/
def Instr.seq? : Instr → Option ByteSeq
  | .readShort seq _ => some seq
  | .readShortReversed seq _ => some seq
  | .readInt seq _ => some seq
  | .readIntReversed seq _ => some seq
  | .readLong seq _ => some seq
  | .readLongReversed seq _ => some seq
  | .decodeVarInt seq _ => some seq
  | .decodeVarIntReversed seq _ => some seq
  | .encodeVarInt _ _ => none
  | .reservedReversedEncoder => none
  | .reserved101 _ => none
  | .reserved11 _ => none

/-- The offset an operation uses, where it uses one (R93). -/
def Instr.off? : Instr → Option Int
  | .readShort _ off => some off
  | .readShortReversed _ off => some off
  | .readInt _ off => some off
  | .readIntReversed _ off => some off
  | .readLong _ off => some off
  | .readLongReversed _ off => some off
  | .decodeVarInt _ off => some off
  | .decodeVarIntReversed _ off => some off
  | .encodeVarInt _ _ => none
  | .reservedReversedEncoder => none
  | .reserved101 _ => none
  | .reserved11 _ => none

/-- The encoded size an operation uses, where it uses one (R93). -/
def Instr.size? : Instr → Option Int
  | .readShort _ _ => none
  | .readShortReversed _ _ => none
  | .readInt _ _ => none
  | .readIntReversed _ _ => none
  | .readLong _ _ => none
  | .readLongReversed _ _ => none
  | .decodeVarInt _ _ => none
  | .decodeVarIntReversed _ _ => none
  | .encodeVarInt _ size => some size
  | .reservedReversedEncoder => none
  | .reserved101 _ => none
  | .reserved11 _ => none

/-- Check 1: the unit accepts the request, which bounds only the length of a sequence the operation uses (R13, R93).
Every other operand value is a legal request (R98, R99). -/
def Accepted (p : Params) (i : Instr) : Bool :=
  i.seq?.all fun seq => p.acceptsLength seq.length

/-- Check 2: the interface of bounded words can carry the request's offset (R98). -/
def CarriesOff (p : Params) (i : Instr) : Bool :=
  i.off?.all fun off => fitsSigned p.offsetBits off

/-- Check 3: the interface of bounded words can carry the request's encoded size (R99). -/
def CarriesSize (p : Params) (i : Instr) : Bool :=
  i.size?.all fun size => fitsSigned p.sizeBits size

/-- A request that a unit with parameters `p` accepts and its interface of bounded words can carry. -/
def WellFormed (p : Params) (i : Instr) : Bool :=
  Accepted p i && CarriesOff p i && CarriesSize p i

end Sys2Proof
end

