-- ==== Sys2Proof/Decode.lean ====
section
/-! DEFINITION. Decoding a request (R92, R93, R97), the encoder written from the same operation map (R95), the interface of
bounded words (R98, R99), and the operation map itself as rows of mask and match. -/

namespace Sys2Proof

/-- `OP[3:1]`, the function F (R92). -/
def opF (op : BitVec 4) : BitVec 3 := op.extractLsb' 1 3

/-- `OP[0]`, the reversed select R (R92). -/
def opR (op : BitVec 4) : BitVec 1 := op.extractLsb' 0 1

/-- `R ? a : b`, as R97 writes it. -/
def selectR (r : BitVec 1) (a b : Instr) : Instr :=
  match r.toNat with
  | 0 => b
  | _ => a

/-- Decoding a request is total: OP picks the operation (R97) and the operation picks its operands (R93).  The values R97 sends
to IllegalOp decode to the reserved rows, whose meaning is that response. -/
def decode (q : Request) : Instr :=
  match (opF q.op).toNat with
  | 0b000 => selectR (opR q.op) (.readShortReversed q.seq q.off) (.readShort q.seq q.off)
  | 0b001 => selectR (opR q.op) (.readIntReversed q.seq q.off) (.readInt q.seq q.off)
  | 0b010 => selectR (opR q.op) (.readLongReversed q.seq q.off) (.readLong q.seq q.off)
  | 0b011 => selectR (opR q.op) (.decodeVarIntReversed q.seq q.off) (.decodeVarInt q.seq q.off)
  | 0b100 => selectR (opR q.op) .reservedReversedEncoder (.encodeVarInt q.val q.size)
  | 0b101 => .reserved101 (opR q.op)
  | _ => .reserved11 (q.op.extractLsb' 0 2)

/-- The operation select of an instruction, from the operation map (R95). -/
def opcode : Instr → BitVec 4
  | .readShort _ _ => 0x0#4
  | .readShortReversed _ _ => 0x1#4
  | .readInt _ _ => 0x2#4
  | .readIntReversed _ _ => 0x3#4
  | .readLong _ _ => 0x4#4
  | .readLongReversed _ _ => 0x5#4
  | .decodeVarInt _ _ => 0x6#4
  | .decodeVarIntReversed _ _ => 0x7#4
  | .encodeVarInt _ _ => 0x8#4
  | .reservedReversedEncoder => 0x9#4
  | .reserved101 r => (0b101#3 ++ r : BitVec 4)
  | .reserved11 x => (0b11#2 ++ x : BitVec 4)

/-- A request with operation select `op` and every operand field zero. -/
def Request.bare (op : BitVec 4) : Request :=
  { op := op, seq := [], off := 0, val := 0#64, size := 0 }

/-- The request that asks for an instruction; the fields its operation ignores (R93) are zero. -/
def encode (i : Instr) : Request :=
  match i with
  | .readShort seq off => { Request.bare (opcode i) with seq := seq, off := off }
  | .readShortReversed seq off => { Request.bare (opcode i) with seq := seq, off := off }
  | .readInt seq off => { Request.bare (opcode i) with seq := seq, off := off }
  | .readIntReversed seq off => { Request.bare (opcode i) with seq := seq, off := off }
  | .readLong seq off => { Request.bare (opcode i) with seq := seq, off := off }
  | .readLongReversed seq off => { Request.bare (opcode i) with seq := seq, off := off }
  | .decodeVarInt seq off => { Request.bare (opcode i) with seq := seq, off := off }
  | .decodeVarIntReversed seq off => { Request.bare (opcode i) with seq := seq, off := off }
  | .encodeVarInt val size => { Request.bare (opcode i) with val := val, size := size }
  | .reservedReversedEncoder => Request.bare (opcode i)
  | .reserved101 _ => Request.bare (opcode i)
  | .reserved11 _ => Request.bare (opcode i)

/-- What an interface of bounded words carries of a request: the low bits of the offset and of the size (R98, R99). -/
def Request.toWire (p : Params) (q : Request) : WireRequest p :=
  { op := q.op, seq := q.seq, off := BitVec.ofInt p.offsetBits q.off, val := q.val, size := BitVec.ofInt p.sizeBits q.size }

/-- The request an interface of bounded words carries: offset and size read as two's complement (R98, R99). -/
def WireRequest.toRequest {p : Params} (w : WireRequest p) : Request :=
  { op := w.op, seq := w.seq, off := w.off.toInt, val := w.val, size := w.size.toInt }

/-- Why a unit does not take a request in. -/
inductive NotAccepted where
  /-- The sequence the operation uses is longer than `P_MAX_LEN` (R13).  Safe: nothing runs. -/
  | sequenceTooLong
  deriving DecidableEq, Repr

/-- Decoding at the unit's door: the instruction, or by name why the unit does not accept the request. -/
def accept (p : Params) (q : Request) : Except NotAccepted Instr :=
  if Accepted p (decode q) then .ok (decode q) else .error .sequenceTooLong

/-- The same from an interface of bounded words. -/
def acceptWire (p : Params) (w : WireRequest p) : Except NotAccepted Instr := accept p w.toRequest

/-- The words of an instruction on an interface of bounded words. -/
def encodeWire (p : Params) (i : Instr) : WireRequest p := (encode i).toWire p

/-- A row of the operation map: an operation select belongs to the row when it agrees with `bits` under `mask`
(spec/opcode_table.json). -/
structure OpRow where
  /-- The row's mnemonic, as the table spells it. -/
  mnemonic : String
  /-- The bits the row fixes. -/
  mask : BitVec 4
  /-- Their values. -/
  bits : BitVec 4
  deriving DecidableEq, Repr

/-- Does the row cover this operation select? -/
def OpRow.covers (row : OpRow) (op : BitVec 4) : Bool := op &&& row.mask == row.bits

/-- The operation map (R95, opcode_table.json), row by row. -/
def opRows : List OpRow :=
  [ ⟨"readShort", 0xF#4, 0x0#4⟩, ⟨"readShortReversed", 0xF#4, 0x1#4⟩,
    ⟨"readInt", 0xF#4, 0x2#4⟩, ⟨"readIntReversed", 0xF#4, 0x3#4⟩,
    ⟨"readLong", 0xF#4, 0x4#4⟩, ⟨"readLongReversed", 0xF#4, 0x5#4⟩,
    ⟨"decodeVarInt", 0xF#4, 0x6#4⟩, ⟨"decodeVarIntReversed", 0xF#4, 0x7#4⟩,
    ⟨"encodeVarInt", 0xF#4, 0x8#4⟩, ⟨"reserved__no_reversed_encoder", 0xF#4, 0x9#4⟩,
    ⟨"(reserved)", 0xE#4, 0xA#4⟩, ⟨"(reserved)", 0xC#4, 0xC#4⟩ ]

/-- The row of the operation map an instruction belongs to. -/
def Instr.row : Instr → OpRow
  | .readShort _ _ => ⟨"readShort", 0xF#4, 0x0#4⟩
  | .readShortReversed _ _ => ⟨"readShortReversed", 0xF#4, 0x1#4⟩
  | .readInt _ _ => ⟨"readInt", 0xF#4, 0x2#4⟩
  | .readIntReversed _ _ => ⟨"readIntReversed", 0xF#4, 0x3#4⟩
  | .readLong _ _ => ⟨"readLong", 0xF#4, 0x4#4⟩
  | .readLongReversed _ _ => ⟨"readLongReversed", 0xF#4, 0x5#4⟩
  | .decodeVarInt _ _ => ⟨"decodeVarInt", 0xF#4, 0x6#4⟩
  | .decodeVarIntReversed _ _ => ⟨"decodeVarIntReversed", 0xF#4, 0x7#4⟩
  | .encodeVarInt _ _ => ⟨"encodeVarInt", 0xF#4, 0x8#4⟩
  | .reservedReversedEncoder => ⟨"reserved__no_reversed_encoder", 0xF#4, 0x9#4⟩
  | .reserved101 _ => ⟨"(reserved)", 0xE#4, 0xA#4⟩
  | .reserved11 _ => ⟨"(reserved)", 0xC#4, 0xC#4⟩

/-- The request whose table bits are the low `nbits` bits of `w`, every operand zero; `none` where a bit above OP[3:0] is set,
since no field of a request holds it.  DESIGN CHOICE, safe: the assumption log, entry 18. -/
def tableRequest (nbits w : Nat) : Option Request :=
  if w % 2 ^ nbits < 16 then some (Request.bare (BitVec.ofNat 4 (w % 2 ^ nbits))) else none

/-- What the decoder reads from a request whose table bits are `w`. -/
def decodeTableWord (nbits w : Nat) : Option Instr := (tableRequest nbits w).map decode

end Sys2Proof
end

