-- ==== Sys2Proof/Machine/State.lean ====
section
/-! DEFINITION. The state of the model: the requests in flight, the response being formed, the responses handed out, and the
parameters of R13.  The unit itself has no register, flag, control field or hidden state (R30 to R36, R42). -/

namespace Sys2Proof.Machine

/-- The error kinds a response reports (R210).  An error is a response, not a trap (R220). -/
inductive ErrorKind where
  /-- A read or decode beyond the sequence, or at a negative offset (R211). -/
  | outOfBounds
  /-- An encode request whose size is not 1, 3, 5 or 9 (R212). -/
  | invalidSize
  /-- A request whose OP is 0x9 to 0xF (R213). -/
  | illegalOp
  deriving DecidableEq, Repr

/-- The result of a successful request (R94, R122, R153, R185). -/
inductive Result where
  /-- A 16-bit fixed-width read. -/
  | word16 (w : BitVec 16)
  /-- A 32-bit fixed-width read. -/
  | word32 (w : BitVec 32)
  /-- A 64-bit fixed-width read. -/
  | word64 (w : BitVec 64)
  /-- A VarInt decode: the value and the number of bytes consumed. -/
  | varInt (value : Word64) (size : Nat)
  /-- The encoder's output, index 0 first. -/
  | bytes (out : ByteSeq)
  deriving DecidableEq, Repr

/-- A response: a result or an error, never both (R94: "A model writes the response as a sum type"). -/
inductive Response where
  /-- STATUS = OK, with the result. -/
  | ok (r : Result)
  /-- STATUS names the error; there is no result (R214, R216). -/
  | error (e : ErrorKind)
  deriving DecidableEq, Repr

/-- Which host issued a request.  The unit does not see it (R226): the model uses it only to hand the response to "the host
that issued that request" (R215).  DESIGN CHOICE, safe: the assumption log, entry 16. -/
abbrev HostId := Nat

/-- A request in flight. -/
structure Issued where
  /-- The host that issued it. -/
  host : HostId
  /-- The request. -/
  request : Request
  deriving DecidableEq, Repr

/-- A response a host has received, beside the request it answers ("the caller already holds the request's operands", R214). -/
structure Delivered where
  /-- The host that received it. -/
  host : HostId
  /-- The request it answers. -/
  request : Request
  /-- The response. -/
  response : Response
  deriving DecidableEq, Repr

/-- Why a step stops with a fault.  There is no constructor: the unit has no trap, and each of its errors is a response after
which it takes the next request (R215, R220, R221). -/
inductive Fault where
  deriving DecidableEq, Repr

/-- Why a step is refused. -/
inductive Refusal where
  /-- Raised by an arm of `exec` whose instruction has no meaning yet; no arm of this model is one.  Safe: nothing runs. -/
  | notModelled (mnemonic : String)
  deriving DecidableEq, Repr

/-- The state of the model. -/
structure State where
  /-- The parameters of R13, fixed for the unit: no operation changes them. -/
  params : Params
  /-- The requests in flight, in the order the unit answers them (R40, R42, R226). -/
  waiting : List Issued
  /-- The response just formed, until it is handed to its host (R94). -/
  response : Option Response
  /-- The responses handed to the hosts so far, oldest first.  The unit never reads them (R30). -/
  delivered : List Delivered
  deriving DecidableEq, Repr

/-- After reset no request is in flight and there is nothing else to set (R240); the parameters are R13's defaults. -/
def State.reset : State :=
  { params := Params.default, waiting := [], response := none, delivered := [] }

end Sys2Proof.Machine
end

