-- ==== Sys2Proof/Machine/Flags.lean ====
section
/-! DEFINITION. The unit has no flags or condition codes (R33): the outcome of a request is a field of its response.  This file
holds that field, STATUS (R210), and the other response fields as a bus carries them (R94). -/

namespace Sys2Proof.Machine

/-- The STATUS code of an error (R210). -/
def ErrorKind.status : ErrorKind → BitVec 2
  | .outOfBounds => 0b01#2
  | .invalidSize => 0b10#2
  | .illegalOp => 0b11#2

/-- `STATUS[1:0]` of a response; 00 is OK (R94, R210). -/
def Response.status : Response → BitVec 2
  | .ok _ => 0b00#2
  | .error e => e.status

/-- `WORD[63:0]`, present on OK from a fixed-width read: the N-bit result, `WORD[63:N] = 0` (R94, R122). -/
def Response.word? : Response → Option (BitVec 64)
  | .ok (.word16 w) => some (w.setWidth 64)
  | .ok (.word32 w) => some (w.setWidth 64)
  | .ok (.word64 w) => some w
  | .ok (.varInt _ _) => none
  | .ok (.bytes _) => none
  | .error _ => none

/-- `VVAL[63:0]`, present on OK from a VarInt decode (R94). -/
def Response.vval? : Response → Option (BitVec 64)
  | .ok (.varInt v _) => some v
  | .ok (.word16 _) => none
  | .ok (.word32 _) => none
  | .ok (.word64 _) => none
  | .ok (.bytes _) => none
  | .error _ => none

/-- `VSIZE[3:0]`, present on OK from a VarInt decode (R94). -/
def Response.vsize? : Response → Option (BitVec 4)
  | .ok (.varInt _ k) => some (BitVec.ofNat 4 k)
  | .ok (.word16 _) => none
  | .ok (.word32 _) => none
  | .ok (.word64 _) => none
  | .ok (.bytes _) => none
  | .error _ => none

/-- `OBYTES`, present on OK from the encoder, index 0 first (R94). -/
def Response.obytes? : Response → Option ByteSeq
  | .ok (.bytes out) => some out
  | .ok (.word16 _) => none
  | .ok (.word32 _) => none
  | .ok (.word64 _) => none
  | .ok (.varInt _ _) => none
  | .error _ => none

/-- `OLEN[3:0]`, present on OK from the encoder: the output's length (R94). -/
def Response.olen? (r : Response) : Option (BitVec 4) :=
  r.obytes?.map fun out => BitVec.ofNat 4 out.length

end Sys2Proof.Machine
end

