-- ==== Sys2Proof/Machine/Operands.lean ====
section
/-! DEFINITION. The operand forms: the bounds check (R63), reading bytes of the borrowed sequence, big-endian and little-endian
composition (R120, R121), payload widening (R152), and the encoder's byte list (R180). -/

namespace Sys2Proof.Machine

/-- A read of `n` bytes at `off` is admitted, computed on integers, so never wrapping (R63). -/
abbrev Admitted (seq : ByteSeq) (off : Int) (n : Nat) : Prop :=
  0 ≤ off ∧ off + (n : Int) ≤ (seq.length : Int)

/-- `CheckBounds` (R63). -/
def checkBounds (seq : ByteSeq) (off : Int) (n : Nat) : Except ErrorKind Unit :=
  if off < 0 ∨ off + (n : Int) > (seq.length : Int) then .error .outOfBounds else .ok ()

/-- `seq[a .. a+n]` (R16): the `n` single bytes an admitted read fetches, the byte at `a` first. -/
def window (seq : ByteSeq) (a n : Nat) : List Byte := (seq.drop a).take n

/-- The bytes an access of `n` bytes at `off` reads, after the bounds check; no byte is read when it fails (R63). -/
def fetchBytes (seq : ByteSeq) (off : Int) (n : Nat) : Except ErrorKind (List Byte) :=
  match checkBounds seq off n with
  | .error e => .error e
  | .ok () => .ok (window seq off.toNat n)

/-- The loop of `ReadBE` (R120): `v = (v << 8) | zext(byte)` over the bytes in order. -/
def composeBE (w : Nat) (bs : List Byte) : BitVec w :=
  bs.foldl (fun v b => (v <<< 8) ||| b.setWidth w) 0#w

/-- The loop of `ReadLE` (R121), from its `i`-th turn with value `v`: `v = v | (zext(byte) << (8 * i))`. -/
def composeLEFrom (w : Nat) (i : Nat) (v : BitVec w) : List Byte → BitVec w
  | [] => v
  | b :: bs => composeLEFrom w (i + 1) (v ||| (b.setWidth w <<< (8 * i))) bs

/-- The loop of `ReadLE` (R121). -/
def composeLE (w : Nat) (bs : List Byte) : BitVec w := composeLEFrom w 0 0#w bs

/-- `ReadBE(seq, off, n)`, a word of `8n` bits (R120). -/
def readBE (seq : ByteSeq) (off : Int) (n : Nat) : Except ErrorKind (BitVec (8 * n)) :=
  match fetchBytes seq off n with
  | .error e => .error e
  | .ok bs => .ok (composeBE (8 * n) bs)

/-- `ReadLE(seq, off, n)`, a word of `8n` bits (R121). -/
def readLE (seq : ByteSeq) (off : Int) (n : Nat) : Except ErrorKind (BitVec (8 * n)) :=
  match fetchBytes seq off n with
  | .error e => .error e
  | .ok bs => .ok (composeLE (8 * n) bs)

/-- `Widen(p, N)` (R152): for 64 bits both readings are the identity. -/
def widen {n : Nat} (ext : PayloadExt) (p : BitVec n) : Word64 :=
  match ext with
  | .zero => p.setWidth 64
  | .sign => p.signExtend 64

/-- `LEBytes(v, n)`: the low `n` bytes of `v`, least significant first (R180). -/
def leBytes (v : Word64) (n : Nat) : List Byte :=
  (List.range n).map fun k => v.extractLsb' (8 * k) 8

end Sys2Proof.Machine
end

