-- ==== Sys2Proof/Machine/Ops.lean ====
section
/-! DEFINITION. The named operations over the state: forming a response, raising an error (the unit's only exception), taking a
request in, taking the next one up, handing a response to its host, and reset. -/

namespace Sys2Proof.Machine

/-- The state with this response formed: the one thing an operation writes (R61, R94). -/
def State.answering (s : State) (r : Response) : State := { s with response := some r }

/-- `return r` (R17): the operation ends with the result. -/
def succeed (r : Result) (s : State) : Host.Outcome State Fault Refusal :=
  .next (s.answering (.ok r))

/-- `raise E()` (R17), the one way every error is taken: the operation ends at once with the error response and no result.
Nothing is saved, no mode changes and control goes nowhere (R215, R220); there is no return from it (R221). -/
def raise (e : ErrorKind) (s : State) : Host.Outcome State Fault Refusal :=
  .next (s.answering (.error e))

/-- An operation's response: its result, or the error it raised. -/
def respond (r : Except ErrorKind Result) (s : State) : Host.Outcome State Fault Refusal :=
  match r with
  | .ok v => succeed v s
  | .error e => raise e s

/-- A host issues a request (R41).  It joins the requests in flight where the unit accepts it (R13, `P_MAX_LEN`). -/
def State.issue (h : HostId) (q : Request) (s : State) : Except NotAccepted State :=
  match accept s.params q with
  | .ok _ => .ok { s with waiting := s.waiting ++ [⟨h, q⟩] }
  | .error e => .error e

/-- A host issues a request over the interface of bounded words (R91, R98, R99). -/
def State.issueWire (h : HostId) (s : State) (w : WireRequest s.params) : Except NotAccepted State :=
  s.issue h w.toRequest

/-- The unit takes up the request at the head of those in flight, if there is one. -/
def State.takeRequest (s : State) : Option (Issued × State) :=
  match s.waiting with
  | [] => none
  | q :: rest => some (q, { s with waiting := rest })

/-- The response is handed to the host that issued the request (R215), and the unit keeps nothing of it (R30, R39). -/
def State.handOver (q : Issued) (s : State) : State :=
  match s.response with
  | none => s
  | some r => { s with response := none, delivered := s.delivered ++ [⟨q.host, q.request, r⟩] }

/-- `handOver` after an instruction that answered a next state. -/
def deliver (q : Issued) (o : Host.Outcome State Fault Refusal) : Host.Outcome State Fault Refusal :=
  match o with
  | .next t => .next (t.handOver q)
  | .fault r => .fault r
  | .refused r => .refused r

/-- Another request in flight is to be answered next: the `k`-th moves to the head.  Nothing orders the requests of different
hosts (R79, R226).  No effect when there are not that many. -/
def State.choose (k : Nat) (s : State) : State :=
  match s.waiting[k]? with
  | none => s
  | some q => { s with waiting := q :: s.waiting.eraseIdx k }

/-- Reset of a running unit: the requests in flight are cut off and get no response; the unit has nothing else to reset (R240,
R241).  What the hosts have already received stays theirs, and the parameters are the unit's own. -/
def State.assertReset (s : State) : State :=
  { s with waiting := [], response := none }

/-- The request with table bits `w` and zero operands, as the request the unit takes up next; `s` itself where `w` spells no
request (`tableRequest`). -/
def State.withTableRequest (s : State) (nbits w : Nat) : State :=
  match tableRequest nbits w with
  | none => s
  | some q => { s with waiting := ⟨0, q⟩ :: s.waiting }

end Sys2Proof.Machine
end

