-- ==== Sys2Proof/Machine/Reader.lean ====
section
/-! DEFINITION. The fixed-width reader: six reads (40_fixed_width_reader.md). -/

namespace Sys2Proof.Machine

/-- `readShort` (R123). -/
def execReadShort (seq : ByteSeq) (off : Int) (s : State) : Host.Outcome State Fault Refusal :=
  respond ((readBE seq off 2).map Result.word16) s

/-- `readShortReversed` (R124). -/
def execReadShortReversed (seq : ByteSeq) (off : Int) (s : State) : Host.Outcome State Fault Refusal :=
  respond ((readLE seq off 2).map Result.word16) s

/-- `readInt` (R125). -/
def execReadInt (seq : ByteSeq) (off : Int) (s : State) : Host.Outcome State Fault Refusal :=
  respond ((readBE seq off 4).map Result.word32) s

/-- `readIntReversed` (R126). -/
def execReadIntReversed (seq : ByteSeq) (off : Int) (s : State) : Host.Outcome State Fault Refusal :=
  respond ((readLE seq off 4).map Result.word32) s

/-- `readLong` (R127). -/
def execReadLong (seq : ByteSeq) (off : Int) (s : State) : Host.Outcome State Fault Refusal :=
  respond ((readBE seq off 8).map Result.word64) s

/-- `readLongReversed` (R128). -/
def execReadLongReversed (seq : ByteSeq) (off : Int) (s : State) : Host.Outcome State Fault Refusal :=
  respond ((readLE seq off 8).map Result.word64) s

end Sys2Proof.Machine
end

