-- ==== Sys2Proof/Machine/Reserved.lean ====
section
/-! DEFINITION. The reserved operation selects: IllegalOp, from OP alone, with no operand read (R96, R213, R217). -/

namespace Sys2Proof.Machine

/-- OP 0x9: there is no reversed encoder (R96, R186). -/
def execReservedReversedEncoder (s : State) : Host.Outcome State Fault Refusal :=
  raise .illegalOp s

/-- OP 0xA and 0xB (R96). -/
def execReserved101 (_r : BitVec 1) (s : State) : Host.Outcome State Fault Refusal :=
  raise .illegalOp s

/-- OP 0xC to 0xF (R96). -/
def execReserved11 (_x : BitVec 2) (s : State) : Host.Outcome State Fault Refusal :=
  raise .illegalOp s

end Sys2Proof.Machine
end

