-- ==== Sys2Proof/Machine/VarIntDecoder.lean ====
section
/-! DEFINITION. The VarInt decoder: one algorithm, two variants (41_varint_decoder.md). -/

namespace Sys2Proof.Machine

/-- The discriminant stage: one byte at `off`, read unsigned (R150). -/
def readDiscriminant (seq : ByteSeq) (off : Int) : Except ErrorKind Nat :=
  (fetchBytes seq off 1).map fun bs => (composeBE 8 bs).toNat

/-- The payload stage: `n` bytes at `off + 1`, in the variant's byte order, widened (R151, R152, R154). -/
def readPayload (ext : PayloadExt) (rev : Bool) (seq : ByteSeq) (off : Int) (n : Nat) : Except ErrorKind Result :=
  (if rev then readLE seq (off + 1) n else readBE seq (off + 1) n).map fun p => Result.varInt (widen ext p) (1 + n)

/-- `DecodeVarIntCommon` (R151). -/
def decodeVarIntCommon (ext : PayloadExt) (rev : Bool) (seq : ByteSeq) (off : Int) : Except ErrorKind Result :=
  match readDiscriminant seq off with
  | .error e => .error e
  | .ok d =>
    if d ≤ 252 then .ok (.varInt (BitVec.ofNat 64 d) 1)
    else if d = 253 then readPayload ext rev seq off 2
    else if d = 254 then readPayload ext rev seq off 4
    else readPayload ext rev seq off 8

/-- `decodeVarInt`: big-endian payload (R157). -/
def execDecodeVarInt (seq : ByteSeq) (off : Int) (s : State) : Host.Outcome State Fault Refusal :=
  respond (decodeVarIntCommon s.params.payloadExt false seq off) s

/-- `decodeVarIntReversed`: little-endian payload (R158). -/
def execDecodeVarIntReversed (seq : ByteSeq) (off : Int) (s : State) : Host.Outcome State Fault Refusal :=
  respond (decodeVarIntCommon s.params.payloadExt true seq off) s

end Sys2Proof.Machine
end

