-- ==== Sys2Proof/Machine/VarIntEncoder.lean ====
section
/-! DEFINITION. The VarInt encoder: one operation, always little-endian (42_varint_encoder.md). -/

namespace Sys2Proof.Machine

/-- The pseudocode of R180: it switches on the size alone (R184) and masks the value to the bits the size has room for (R182,
R183).  The masking at sizes 3 and 5 is the spec's decision D12: the assumption log, entry 9. -/
def encodeVarIntBytes (val : Word64) (size : Int) : Except ErrorKind ByteSeq :=
  if size = 1 then .ok (leBytes val 1)
  else if size = 3 then .ok (0xFD#8 :: leBytes val 2)
  else if size = 5 then .ok (0xFE#8 :: leBytes val 4)
  else if size = 9 then .ok (0xFF#8 :: leBytes val 8)
  else .error .invalidSize

/-- `encodeVarInt` (R180). -/
def execEncodeVarInt (val : Word64) (size : Int) (s : State) : Host.Outcome State Fault Refusal :=
  respond ((encodeVarIntBytes val size).map Result.bytes) s

end Sys2Proof.Machine
end

