-- ==== Sys2Proof/Machine/Dispatch.lean ====
section
/-! DEFINITION. One arm per row of the operation map (R95). -/

namespace Sys2Proof.Machine

def exec (i : Instr) (s : State) : Host.Outcome State Fault Refusal :=
  match i with
  | .readShort seq off => Sys2Proof.Machine.execReadShort seq off s
  | .readShortReversed seq off => Sys2Proof.Machine.execReadShortReversed seq off s
  | .readInt seq off => Sys2Proof.Machine.execReadInt seq off s
  | .readIntReversed seq off => Sys2Proof.Machine.execReadIntReversed seq off s
  | .readLong seq off => Sys2Proof.Machine.execReadLong seq off s
  | .readLongReversed seq off => Sys2Proof.Machine.execReadLongReversed seq off s
  | .decodeVarInt seq off => Sys2Proof.Machine.execDecodeVarInt seq off s
  | .decodeVarIntReversed seq off => Sys2Proof.Machine.execDecodeVarIntReversed seq off s
  | .encodeVarInt val size => Sys2Proof.Machine.execEncodeVarInt val size s
  | .reservedReversedEncoder => Sys2Proof.Machine.execReservedReversedEncoder s
  | .reserved101 r => Sys2Proof.Machine.execReserved101 r s
  | .reserved11 x => Sys2Proof.Machine.execReserved11 x s

end Sys2Proof.Machine
end

