-- ==== Sys2Proof/Machine/Step.lean ====
section
/-! DEFINITION. One step: the unit answers the request at the head of those in flight (R40, R249); with none in flight it does
nothing. -/

namespace Sys2Proof.Machine

/-- One request, from request to response (R249).  With no request in flight the state stays as it is.  DEDUCED, safe: the
assumption log, entry 6. -/
def step (s : State) : Host.Outcome State Fault Refusal :=
  match s.takeRequest with
  | none => .next s
  | some (q, s') => deliver q (exec (decode q.request) s')

/-- `s` with the request of table bits `w` (zero operands) as the request the very next step answers. -/
def State.withFetchWord (s : State) (nbits w : Nat) : State := s.withTableRequest nbits w

end Sys2Proof.Machine
end

