-- ==== Sys2Proof/Machine/Hosts.lean ====
section
/-! DEFINITION. What the outside world does to the unit: hosts issue requests in any order, any of the requests in flight is
answered next, and reset may come at any time (R40, R41, R79, R226, R241). -/

namespace Sys2Proof.Machine

/-- One move of the machine with its hosts.  A host that changes a sequence during a request has no move (R74, R244; the
assumption log, entry 12). -/
inductive Event where
  /-- A host issues a request (R41). -/
  | issue (host : HostId) (request : Request)
  /-- The `k`-th request in flight is to be answered next (R79). -/
  | choose (k : Nat)
  /-- The unit answers one request. -/
  | serve
  /-- Reset (R241). -/
  | reset
  deriving DecidableEq, Repr

/-- One move.  A request the unit does not accept (R13, `P_MAX_LEN`) does not join those in flight. -/
def react (e : Event) (s : State) : Host.Outcome State Fault Refusal :=
  match e with
  | .issue h q =>
    match s.issue h q with
    | .ok t => .next t
    | .error _ => .next s
  | .choose k => .next (s.choose k)
  | .serve => step s
  | .reset => .next s.assertReset

/-- A run of moves, stopping at the first fault or refusal. -/
def runEvents : List Event → State → Host.Outcome State Fault Refusal
  | [], s => .next s
  | e :: es, s =>
    match react e s with
    | .next t => runEvents es t
    | .fault r => .fault r
    | .refused r => .refused r

/-- The response a unit with parameters `p` gives to a request that runs alone, right after reset (R79, R226, R240). -/
def responseAlone (p : Params) (q : Request) : Option Response :=
  match step { State.reset with params := p, waiting := [⟨0, q⟩] } with
  | .next t => t.delivered.head?.map Delivered.response
  | .fault _ => none
  | .refused _ => none

end Sys2Proof.Machine
end

