-- ==== Sys2Proof/Safety.lean ====
section
/-! DEFINITION. What counts as a safe run, the invariants, and the spec's own formulas that the statements compare the machine
with. -/

namespace Sys2Proof.Machine

/-- A safe run: the unit never stops, however many requests it is asked to answer (R221, R249). -/
def NeverStops (s : State) : Prop := ∀ k : Nat, ∃ t : State, Sys2Proof.core.run k s = .next t

/-- The byte at address `a` of a sequence, as a number (R16). -/
def byteAt (seq : ByteSeq) (a : Nat) : Nat := (seq.getD a 0#8).toNat

/-- The sum of R64: the byte at `a` is the most significant. -/
def beValue (seq : ByteSeq) (a n : Nat) : Nat :=
  ∑ i ∈ Finset.range n, byteAt seq (a + i) * 2 ^ (8 * (n - 1 - i))

/-- The sum of R65: the byte at `a` is the least significant. -/
def leValue (seq : ByteSeq) (a n : Nat) : Nat :=
  ∑ i ∈ Finset.range n, byteAt seq (a + i) * 2 ^ (8 * i)

/-- The payload width of a discriminant (R100's table). -/
def payloadWidth (d : Nat) : Nat :=
  if d ≤ 252 then 0 else if d = 253 then 2 else if d = 254 then 4 else 8

/-- The number a payload `p` of `n` bytes stands for when it is widened by `ext` (R152). -/
def payloadReading (ext : PayloadExt) (n p : Nat) : Int :=
  match ext with
  | .zero => p
  | .sign => if p < 2 ^ (8 * n - 1) then (p : Int) else (p : Int) - 2 ^ (8 * n)

/-- `bswap_(8n)` of R188: the number whose `n` bytes are those of `v` in reverse order. -/
def bswap (n : Nat) (v : Nat) : Nat :=
  ∑ i ∈ Finset.range n, (v / 2 ^ (8 * i) % 256) * 2 ^ (8 * (n - 1 - i))

/-- `range(size)` of R187: the values a size stands for. -/
def InRange (size : Int) (val : Nat) : Prop :=
  (size = 1 ∧ val ≤ 252) ∨ (size = 3 ∧ val < 2 ^ 16) ∨ (size = 5 ∧ val < 2 ^ 32) ∨ (size = 9 ∧ val < 2 ^ 64)

/-- The one error kind each operation can raise (R217). -/
def errorKindOf : Instr → ErrorKind
  | .readShort _ _ => .outOfBounds
  | .readShortReversed _ _ => .outOfBounds
  | .readInt _ _ => .outOfBounds
  | .readIntReversed _ _ => .outOfBounds
  | .readLong _ _ => .outOfBounds
  | .readLongReversed _ _ => .outOfBounds
  | .decodeVarInt _ _ => .outOfBounds
  | .decodeVarIntReversed _ _ => .outOfBounds
  | .encodeVarInt _ _ => .invalidSize
  | .reservedReversedEncoder => .illegalOp
  | .reserved101 _ => .illegalOp
  | .reserved11 _ => .illegalOp

/-- The results the unit can form: a VarInt's size is 1, 3, 5 or 9 and its value fits a payload of that size, widened either way
(R100, R152, R153); an output has the length and the first byte of its size (R100, R185). -/
def Result.legal : Result → Bool
  | .word16 _ => true
  | .word32 _ => true
  | .word64 _ => true
  | .varInt v k =>
    (k == 1 && decide (v.toNat ≤ 252))
      || (k == 3 && (decide (v.toNat < 2 ^ 16) || decide (2 ^ 64 - 2 ^ 15 ≤ v.toNat)))
      || (k == 5 && (decide (v.toNat < 2 ^ 32) || decide (2 ^ 64 - 2 ^ 31 ≤ v.toNat)))
      || k == 9
  | .bytes out =>
    out.length == 1
      || (out.length == 3 && out.head? == some 0xFD#8)
      || (out.length == 5 && out.head? == some 0xFE#8)
      || (out.length == 9 && out.head? == some 0xFF#8)

/-- The responses the unit can form. -/
def Response.legal : Response → Bool
  | .ok r => r.legal
  | .error _ => true

/-- The invariant of the machine: every request in flight is one the unit accepts (R13), no response is left unhanded between
requests (R30), and every response a host has received is legal. -/
def Inv (s : State) : Prop :=
  (∀ q ∈ s.waiting, Accepted s.params (decode q.request) = true) ∧
  s.response = none ∧
  (∀ d ∈ s.delivered, d.response.legal = true)

/-- Every host holds the response its request would get alone (R79, R226). -/
def AnsweredAsAlone (s : State) : Prop :=
  s.response = none ∧ ∀ d ∈ s.delivered, responseAlone s.params d.request = some d.response

end Sys2Proof.Machine
end

