-- ==== Sys2Proof/Certificates/Slice0/Obligations.lean ====
section
/-! DEFINITION. The statements for the provers.  Each docstring names the rule of spec/ it formalises; where a clause rests on a
decision of the spec or a choice of the model, the docstring says so. -/

open Sys2Proof Sys2Proof.Machine

/-! ### The fixed-width reader -/

/-- R64: every admitted non-reversed read answers with the big-endian sum of its bytes, at every offset. -/
def Obligations.BigEndianReadsGiveTheSum : Prop :=
  ∀ (seq : ByteSeq) (off : Int) (s : State),
    (Admitted seq off 2 → ∃ w : BitVec 16, w.toNat = beValue seq off.toNat 2 ∧
      exec (.readShort seq off) s = .next (s.answering (.ok (.word16 w)))) ∧
    (Admitted seq off 4 → ∃ w : BitVec 32, w.toNat = beValue seq off.toNat 4 ∧
      exec (.readInt seq off) s = .next (s.answering (.ok (.word32 w)))) ∧
    (Admitted seq off 8 → ∃ w : BitVec 64, w.toNat = beValue seq off.toNat 8 ∧
      exec (.readLong seq off) s = .next (s.answering (.ok (.word64 w))))

/-- R65: every admitted reversed read answers with the little-endian sum of its bytes, at every offset. -/
def Obligations.ReversedReadsGiveTheSum : Prop :=
  ∀ (seq : ByteSeq) (off : Int) (s : State),
    (Admitted seq off 2 → ∃ w : BitVec 16, w.toNat = leValue seq off.toNat 2 ∧
      exec (.readShortReversed seq off) s = .next (s.answering (.ok (.word16 w)))) ∧
    (Admitted seq off 4 → ∃ w : BitVec 32, w.toNat = leValue seq off.toNat 4 ∧
      exec (.readIntReversed seq off) s = .next (s.answering (.ok (.word32 w)))) ∧
    (Admitted seq off 8 → ∃ w : BitVec 64, w.toNat = leValue seq off.toNat 8 ∧
      exec (.readLongReversed seq off) s = .next (s.answering (.ok (.word64 w))))

/-- R211 (with R63's check): the six reads and the two decodes raise OutOfBounds exactly when a read they make is not admitted,
the decodes at either of their two stages. -/
def Obligations.OutOfBoundsExactly : Prop :=
  ∀ (seq : ByteSeq) (off : Int) (s : State),
    (exec (.readShort seq off) s = .next (s.answering (.error .outOfBounds)) ↔
      off < 0 ∨ off + 2 > seq.length) ∧
    (exec (.readShortReversed seq off) s = .next (s.answering (.error .outOfBounds)) ↔
      off < 0 ∨ off + 2 > seq.length) ∧
    (exec (.readInt seq off) s = .next (s.answering (.error .outOfBounds)) ↔
      off < 0 ∨ off + 4 > seq.length) ∧
    (exec (.readIntReversed seq off) s = .next (s.answering (.error .outOfBounds)) ↔
      off < 0 ∨ off + 4 > seq.length) ∧
    (exec (.readLong seq off) s = .next (s.answering (.error .outOfBounds)) ↔
      off < 0 ∨ off + 8 > seq.length) ∧
    (exec (.readLongReversed seq off) s = .next (s.answering (.error .outOfBounds)) ↔
      off < 0 ∨ off + 8 > seq.length) ∧
    (exec (.decodeVarInt seq off) s = .next (s.answering (.error .outOfBounds)) ↔
      off < 0 ∨ off + 1 > seq.length ∨
        off + 1 + payloadWidth (byteAt seq off.toNat) > seq.length) ∧
    (exec (.decodeVarIntReversed seq off) s = .next (s.answering (.error .outOfBounds)) ↔
      off < 0 ∨ off + 1 > seq.length ∨
        off + 1 + payloadWidth (byteAt seq off.toNat) > seq.length)

/-- R71 (derived by the spec from R64 and R65): a reversed read is the non-reversed read of the reversed window. -/
def Obligations.EndianSymmetry : Prop :=
  ∀ (seq : ByteSeq) (off : Int) (s : State),
    (Admitted seq off 2 → exec (.readShortReversed seq off) s =
      exec (.readShort ((seq.drop off.toNat).take 2).reverse 0) s) ∧
    (Admitted seq off 4 → exec (.readIntReversed seq off) s =
      exec (.readInt ((seq.drop off.toNat).take 4).reverse 0) s) ∧
    (Admitted seq off 8 → exec (.readLongReversed seq off) s =
      exec (.readLong ((seq.drop off.toNat).take 8).reverse 0) s)

/-- R70 (derived by the spec): a wide read is the two halves put together, in the order of its orientation. -/
def Obligations.WideReadsAreTwoHalves : Prop :=
  ∀ (seq : ByteSeq) (off : Int) (s : State),
    (Admitted seq off 4 → ∃ a b : BitVec 16,
      exec (.readShort seq off) s = .next (s.answering (.ok (.word16 a))) ∧
      exec (.readShort seq (off + 2)) s = .next (s.answering (.ok (.word16 b))) ∧
      exec (.readInt seq off) s = .next (s.answering (.ok (.word32 ((a.setWidth 32 <<< 16) ||| b.setWidth 32))))) ∧
    (Admitted seq off 8 → ∃ a b : BitVec 32,
      exec (.readInt seq off) s = .next (s.answering (.ok (.word32 a))) ∧
      exec (.readInt seq (off + 4)) s = .next (s.answering (.ok (.word32 b))) ∧
      exec (.readLong seq off) s = .next (s.answering (.ok (.word64 ((a.setWidth 64 <<< 32) ||| b.setWidth 64))))) ∧
    (Admitted seq off 4 → ∃ a b : BitVec 16,
      exec (.readShortReversed seq off) s = .next (s.answering (.ok (.word16 a))) ∧
      exec (.readShortReversed seq (off + 2)) s = .next (s.answering (.ok (.word16 b))) ∧
      exec (.readIntReversed seq off) s = .next (s.answering (.ok (.word32 ((b.setWidth 32 <<< 16) ||| a.setWidth 32))))) ∧
    (Admitted seq off 8 → ∃ a b : BitVec 32,
      exec (.readIntReversed seq off) s = .next (s.answering (.ok (.word32 a))) ∧
      exec (.readIntReversed seq (off + 4)) s = .next (s.answering (.ok (.word32 b))) ∧
      exec (.readLongReversed seq off) s = .next (s.answering (.ok (.word64 ((b.setWidth 64 <<< 32) ||| a.setWidth 64)))))

/-- R129 and R73: a read depends on the bytes of its window alone, wherever the window lies and whatever stands around it. -/
def Obligations.ReadsSeeTheirWindowAlone : Prop :=
  ∀ (seq seq' : ByteSeq) (off off' : Int) (s : State),
    (Admitted seq off 2 → Admitted seq' off' 2 →
      (∀ i < 2, byteAt seq (off.toNat + i) = byteAt seq' (off'.toNat + i)) →
      exec (.readShort seq off) s = exec (.readShort seq' off') s ∧
      exec (.readShortReversed seq off) s = exec (.readShortReversed seq' off') s) ∧
    (Admitted seq off 4 → Admitted seq' off' 4 →
      (∀ i < 4, byteAt seq (off.toNat + i) = byteAt seq' (off'.toNat + i)) →
      exec (.readInt seq off) s = exec (.readInt seq' off') s ∧
      exec (.readIntReversed seq off) s = exec (.readIntReversed seq' off') s) ∧
    (Admitted seq off 8 → Admitted seq' off' 8 →
      (∀ i < 8, byteAt seq (off.toNat + i) = byteAt seq' (off'.toNat + i)) →
      exec (.readLong seq off) s = exec (.readLong seq' off') s ∧
      exec (.readLongReversed seq off) s = exec (.readLongReversed seq' off') s)

/-! ### The VarInt decoder -/

/-- R66: both variants read the discriminant as a plain unsigned byte.  Up to 252 it is the value, with size 1; above, both take
the same size from it. -/
def Obligations.DiscriminantIsUnsignedInBothVariants : Prop :=
  ∀ (seq : ByteSeq) (off : Int) (s : State),
    (Admitted seq off 1 → byteAt seq off.toNat ≤ 252 → ∃ v : Word64, v.toNat = byteAt seq off.toNat ∧
      exec (.decodeVarInt seq off) s = .next (s.answering (.ok (.varInt v 1))) ∧
      exec (.decodeVarIntReversed seq off) s = .next (s.answering (.ok (.varInt v 1)))) ∧
    (Admitted seq off (1 + payloadWidth (byteAt seq off.toNat)) → 253 ≤ byteAt seq off.toNat → ∃ v v' : Word64,
      exec (.decodeVarInt seq off) s = .next (s.answering (.ok (.varInt v (1 + payloadWidth (byteAt seq off.toNat))))) ∧
      exec (.decodeVarIntReversed seq off) s = .next (s.answering (.ok (.varInt v' (1 + payloadWidth (byteAt seq off.toNat))))))

/-- R67: the payload after discriminant 253, 254 or 255 is read big-endian by decodeVarInt and little-endian by
decodeVarIntReversed, at `off + 1`: it stands in the low bits of the value, however it is widened. -/
def Obligations.PayloadOrderFollowsTheVariant : Prop :=
  ∀ (seq : ByteSeq) (off : Int) (s : State) (d n : Nat),
    (d = 253 ∧ n = 2) ∨ (d = 254 ∧ n = 4) ∨ (d = 255 ∧ n = 8) →
    Admitted seq off (1 + n) → byteAt seq off.toNat = d →
    (∃ (p : BitVec (8 * n)) (v : Word64), p.toNat = beValue seq (off.toNat + 1) n ∧ v.setWidth (8 * n) = p ∧
      exec (.decodeVarInt seq off) s = .next (s.answering (.ok (.varInt v (1 + n))))) ∧
    (∃ (p : BitVec (8 * n)) (v : Word64), p.toNat = leValue seq (off.toNat + 1) n ∧ v.setWidth (8 * n) = p ∧
      exec (.decodeVarIntReversed seq off) s = .next (s.answering (.ok (.varInt v (1 + n)))))

/-- The value of a decoded payload, for both values of PAYLOAD_EXT (the spec's parameter, decision D10; log 2): modulo 2^64 it is
the payload under `zero` and the payload read as two's complement under `sign`. -/
def Obligations.PayloadWidening : Prop :=
  ∀ (seq : ByteSeq) (off : Int) (s : State) (d n : Nat),
    (d = 253 ∧ n = 2) ∨ (d = 254 ∧ n = 4) ∨ (d = 255 ∧ n = 8) →
    Admitted seq off (1 + n) → byteAt seq off.toNat = d →
    exec (.decodeVarInt seq off) s = .next (s.answering (.ok (.varInt
      (BitVec.ofInt 64 (payloadReading s.params.payloadExt n (beValue seq (off.toNat + 1) n))) (1 + n)))) ∧
    exec (.decodeVarIntReversed seq off) s = .next (s.answering (.ok (.varInt
      (BitVec.ofInt 64 (payloadReading s.params.payloadExt n (leValue seq (off.toNat + 1) n))) (1 + n))))

/-- R153: a decode that succeeds answers with a size of 1, 3, 5 or 9, the number of bytes it consumed, discriminant included, all
of them inside the sequence; the bus carries value and size in VVAL and VSIZE. -/
def Obligations.DecodedSizeIsTheBytesConsumed : Prop :=
  ∀ (seq : ByteSeq) (off : Int) (s : State) (v : Word64) (k : Nat) (i : Instr),
    i = .decodeVarInt seq off ∨ i = .decodeVarIntReversed seq off →
    exec i s = .next (s.answering (.ok (.varInt v k))) →
    (k = 1 ∨ k = 3 ∨ k = 5 ∨ k = 9) ∧ k = 1 + payloadWidth (byteAt seq off.toNat) ∧ Admitted seq off k ∧
      (Response.ok (.varInt v k)).vval? = some v ∧
      ∃ z : BitVec 4, (Response.ok (.varInt v k)).vsize? = some z ∧ z.toNat = k

/-- R154: a decode whose payload is cut short raises OutOfBounds and returns nothing, not even the discriminant or the size. -/
def Obligations.PayloadCutShortReturnsNothing : Prop :=
  ∀ (seq : ByteSeq) (off : Int) (s : State) (d n : Nat) (i : Instr),
    (d = 253 ∧ n = 2) ∨ (d = 254 ∧ n = 4) ∨ (d = 255 ∧ n = 8) →
    i = .decodeVarInt seq off ∨ i = .decodeVarIntReversed seq off →
    Admitted seq off 1 → byteAt seq off.toNat = d → off + 1 + n > seq.length →
    ∃ r : Response, exec i s = .next (s.answering r) ∧ r = .error .outOfBounds ∧
      r.word? = none ∧ r.vval? = none ∧ r.vsize? = none ∧ r.olen? = none ∧ r.obytes? = none

/-- R155 and R102 (derived by the spec): the decoder accepts every discriminant and every payload that is there, with no check
that a shorter form would do. -/
def Obligations.EveryFormPresentDecodes : Prop :=
  ∀ (seq : ByteSeq) (off : Int) (s : State) (i : Instr),
    i = .decodeVarInt seq off ∨ i = .decodeVarIntReversed seq off →
    Admitted seq off 1 → Admitted seq off (1 + payloadWidth (byteAt seq off.toNat)) →
    ∃ v : Word64, exec i s = .next (s.answering (.ok (.varInt v (1 + payloadWidth (byteAt seq off.toNat)))))

/-- R156 (derived by the spec, under PAYLOAD_EXT = zero, log 2): the variants agree on a single byte, and on a payload one's
value is the byte reversal of the other's, with the same size. -/
def Obligations.VariantsAreByteReversalsOfEachOther : Prop :=
  ∀ (seq : ByteSeq) (off : Int) (s : State), s.params.payloadExt = .zero →
    (Admitted seq off 1 → byteAt seq off.toNat ≤ 252 →
      ∃ t, exec (.decodeVarInt seq off) s = .next t ∧ exec (.decodeVarIntReversed seq off) s = .next t) ∧
    (253 ≤ byteAt seq off.toNat → Admitted seq off (1 + payloadWidth (byteAt seq off.toNat)) →
      ∃ (v v' : Word64) (k : Nat),
        exec (.decodeVarInt seq off) s = .next (s.answering (.ok (.varInt v k))) ∧
        exec (.decodeVarIntReversed seq off) s = .next (s.answering (.ok (.varInt v' k))) ∧
        v.toNat = bswap (payloadWidth (byteAt seq off.toNat)) v'.toNat)

/-- R73 and R101: a successful decode depends on the bytes it consumed alone; what stands before and after them does not matter. -/
def Obligations.DecodesSeeTheirVarIntAlone : Prop :=
  ∀ (seq seq' : ByteSeq) (off off' : Int) (s : State) (v : Word64) (k : Nat),
    Admitted seq' off' k → (∀ i < k, byteAt seq (off.toNat + i) = byteAt seq' (off'.toNat + i)) →
    (exec (.decodeVarInt seq off) s = .next (s.answering (.ok (.varInt v k))) →
      exec (.decodeVarInt seq' off') s = .next (s.answering (.ok (.varInt v k)))) ∧
    (exec (.decodeVarIntReversed seq off) s = .next (s.answering (.ok (.varInt v k))) →
      exec (.decodeVarIntReversed seq' off') s = .next (s.answering (.ok (.varInt v k))))

/-! ### The VarInt encoder -/

/-- R68: a value within the range of size 3, 5 or 9 is written little-endian after the prefix byte, whatever the state. -/
def Obligations.EncoderWritesLittleEndian : Prop :=
  ∀ (val : Word64) (s : State) (n : Nat) (d : Byte),
    (n = 2 ∧ d = 0xFD#8) ∨ (n = 4 ∧ d = 0xFE#8) ∨ (n = 8 ∧ d = 0xFF#8) → val.toNat < 2 ^ (8 * n) →
    ∃ out : ByteSeq,
      exec (.encodeVarInt val (1 + n)) s = .next (s.answering (.ok (.bytes (d :: out)))) ∧
      out.length = n ∧ leValue out 0 n = val.toNat

/-- A value too wide for size 3 or 5 is written as its low 16 or 32 bits, with no error (the spec's decision D12; log 9). -/
def Obligations.WideValuesAreWrittenAsTheirLowBits : Prop :=
  ∀ (val : Word64) (s : State),
    (∃ out, exec (.encodeVarInt val 3) s = .next (s.answering (.ok (.bytes (0xFD#8 :: out)))) ∧
      out.length = 2 ∧ leValue out 0 2 = val.toNat % 2 ^ 16) ∧
    (∃ out, exec (.encodeVarInt val 5) s = .next (s.answering (.ok (.bytes (0xFE#8 :: out)))) ∧
      out.length = 4 ∧ leValue out 0 4 = val.toNat % 2 ^ 32)

/-- R182: size 1 writes the one byte `val mod 256`, whatever the value; where that byte is 253, 254 or 255 it does not decode
alone, and followed by enough bytes it decodes as a longer VarInt. -/
def Obligations.SizeOneWritesOneByte : Prop :=
  ∀ (val : Word64) (s : State), ∃ b : Byte,
    exec (.encodeVarInt val 1) s = .next (s.answering (.ok (.bytes [b]))) ∧ b.toNat = val.toNat % 256 ∧
    (253 ≤ b.toNat →
      exec (.decodeVarInt [b] 0) s = .next (s.answering (.error .outOfBounds)) ∧
      exec (.decodeVarIntReversed [b] 0) s = .next (s.answering (.error .outOfBounds)) ∧
      ∀ more : ByteSeq, payloadWidth b.toNat ≤ more.length → ∃ (v v' : Word64) (k : Nat), 1 < k ∧
        exec (.decodeVarInt (b :: more) 0) s = .next (s.answering (.ok (.varInt v k))) ∧
        exec (.decodeVarIntReversed (b :: more) 0) s = .next (s.answering (.ok (.varInt v' k))))

/-- R181 and R212: InvalidSize exactly when the size is not 1, 3, 5 or 9, on the size alone; no byte is produced. -/
def Obligations.InvalidSizeExactly : Prop :=
  ∀ (val : Word64) (size : Int) (s : State),
    (exec (.encodeVarInt val size) s = .next (s.answering (.error .invalidSize)) ↔
      ¬(size = 1 ∨ size = 3 ∨ size = 5 ∨ size = 9)) ∧
    ((size = 1 ∨ size = 3 ∨ size = 5 ∨ size = 9) → ∃ out,
      exec (.encodeVarInt val size) s = .next (s.answering (.ok (.bytes out)))) ∧
    (Response.error .invalidSize).obytes? = none ∧ (Response.error .invalidSize).olen? = none

/-- R185: the output has exactly `size` bytes, on the bus as OLEN and OBYTES, and nothing else changes. -/
def Obligations.OutputLengthIsTheSize : Prop :=
  ∀ (val : Word64) (size : Int) (s t : State) (r : Response),
    exec (.encodeVarInt val size) s = .next t → t.response = some r → r.status = 0b00#2 →
    t = (s.answering r) ∧ (size = 1 ∨ size = 3 ∨ size = 5 ∨ size = 9) ∧
      ∃ (out : ByteSeq) (len : BitVec 4), r = .ok (.bytes out) ∧ (out.length : Int) = size ∧
        r.obytes? = some out ∧ r.olen? = some len ∧ (len.toNat : Int) = size

/-- R184: the encoder switches on the size alone.  Two values at one size both fail or both give outputs of one length with the
prefix that size has (R100). -/
def Obligations.EncoderSwitchesOnTheSizeAlone : Prop :=
  ∀ (val val' : Word64) (size : Int) (s : State),
    (exec (.encodeVarInt val size) s = .next (s.answering (.error .invalidSize)) ∧
      exec (.encodeVarInt val' size) s = .next (s.answering (.error .invalidSize))) ∨
    ∃ out out' : ByteSeq,
      exec (.encodeVarInt val size) s = .next (s.answering (.ok (.bytes out))) ∧
      exec (.encodeVarInt val' size) s = .next (s.answering (.ok (.bytes out'))) ∧
      (out.length : Int) = size ∧ (out'.length : Int) = size ∧
      (size = 3 → out.head? = some 0xFD#8 ∧ out'.head? = some 0xFD#8) ∧
      (size = 5 → out.head? = some 0xFE#8 ∧ out'.head? = some 0xFE#8) ∧
      (size = 9 → out.head? = some 0xFF#8 ∧ out'.head? = some 0xFF#8)

/-- R187 (derived by the spec) in any stream: what the encoder writes for a value in the size's range, with any bytes before and
after it, decodes at its place with decodeVarIntReversed to the same value and size.  R187 itself is the case of no bytes
before or after.  The premise on PAYLOAD_EXT is R187's own (log 2). -/
def Obligations.RoundTripInAnyStream : Prop :=
  ∀ (before after : ByteSeq) (val : Word64) (size : Int) (s : State),
    InRange size val.toNat → s.params.payloadExt = .zero ∨ size = 1 ∨ size = 9 →
    ∃ out : ByteSeq,
      exec (.encodeVarInt val size) s = .next (s.answering (.ok (.bytes out))) ∧
      (out.length : Int) = size ∧
      exec (.decodeVarIntReversed (before ++ out ++ after) before.length) s =
        .next (s.answering (.ok (.varInt val size.toNat)))

/-- R188 (derived by the spec): decodeVarInt on encoder output gives the value for size 1 and its byte reversal for sizes 3, 5
and 9, with no error. -/
def Obligations.OtherDecoderReversesTheBytes : Prop :=
  ∀ (val : Word64) (size : Int) (s : State), InRange size val.toNat → s.params.payloadExt = .zero →
    ∃ (out : ByteSeq) (v : Word64),
      exec (.encodeVarInt val size) s = .next (s.answering (.ok (.bytes out))) ∧
      exec (.decodeVarInt out 0) s = .next (s.answering (.ok (.varInt v size.toNat))) ∧
      (size = 1 → v = val) ∧ (size ≠ 1 → v.toNat = bswap (size.toNat - 1) val.toNat)

/-! ### Errors and responses -/

/-- The reserved operation selects answer IllegalOp (the spec's decision D5; log 8). -/
def Obligations.ReservedOpsAnswerIllegalOp : Prop :=
  ∀ (s : State) (r : BitVec 1) (x : BitVec 2),
    exec .reservedReversedEncoder s = .next (s.answering (.error .illegalOp)) ∧
    exec (.reserved101 r) s = .next (s.answering (.error .illegalOp)) ∧
    exec (.reserved11 x) s = .next (s.answering (.error .illegalOp))

/-- A request with OP 0x9 to 0xF is answered with IllegalOp by the very step that takes it up, whatever its operands (the spec's
decisions D5 and D22; log 8). -/
def Obligations.ReservedRequestsIgnoreTheirOperands : Prop :=
  ∀ (s : State) (h : HostId) (q : Request) (rest : List Issued),
    s.waiting = ⟨h, q⟩ :: rest → 9 ≤ q.op.toNat →
    step s = .next { s with waiting := rest, response := none, delivered := s.delivered ++ [⟨h, q, .error .illegalOp⟩] }

/-- R216: a response with an error carries no result field at all, and an error leaves the requests in flight, sequences
included, as they were. -/
def Obligations.ErrorsCarryNoResultAndChangeNothing : Prop :=
  ∀ (i : Instr) (s t : State) (e : ErrorKind), exec i s = .next t → t.response = some (.error e) →
    (Response.error e).word? = none ∧ (Response.error e).vval? = none ∧ (Response.error e).vsize? = none ∧
    (Response.error e).olen? = none ∧ (Response.error e).obytes? = none ∧
    t.waiting = s.waiting ∧ t = (s.answering (.error e))

/-- Each operation raises one error kind only (R217, the spec's decision D22). -/
def Obligations.EachOperationRaisesItsOwnError : Prop :=
  ∀ (i : Instr) (s t : State) (e : ErrorKind), exec i s = .next t → t.response = some (.error e) → e = errorKindOf i

/-- The STATUS codes (the spec's decision D6; log 8), which tell the four outcomes apart. -/
def Obligations.StatusCodes : Prop :=
  (∀ r : Result, (Response.ok r).status = 0b00#2) ∧ (Response.error .outOfBounds).status = 0b01#2 ∧
  (Response.error .invalidSize).status = 0b10#2 ∧ (Response.error .illegalOp).status = 0b11#2

/-- The bus fields of a response (R94's table, the spec's decisions D3, D11, D13; log 8 and log 17): WORD for the six reads, holding
exactly the N-bit result, so zero above it; VVAL and VSIZE for the decodes; OLEN and OBYTES for the encoder; and on OK no other
field. -/
def Obligations.BusFieldsFollowTheOperation : Prop :=
  ∀ (i : Instr) (s t : State) (r : Response), exec i s = .next t → t.response = some r → r.status = 0b00#2 →
    match i with
    | .readShort _ _ | .readShortReversed _ _ =>
      (∃ (x : BitVec 16) (w : BitVec 64), r = .ok (.word16 x) ∧ r.word? = some w ∧ w.toNat = x.toNat) ∧
        r.vval? = none ∧ r.vsize? = none ∧ r.olen? = none ∧ r.obytes? = none
    | .readInt _ _ | .readIntReversed _ _ =>
      (∃ (x : BitVec 32) (w : BitVec 64), r = .ok (.word32 x) ∧ r.word? = some w ∧ w.toNat = x.toNat) ∧
        r.vval? = none ∧ r.vsize? = none ∧ r.olen? = none ∧ r.obytes? = none
    | .readLong _ _ | .readLongReversed _ _ =>
      (∃ (x : BitVec 64) (w : BitVec 64), r = .ok (.word64 x) ∧ r.word? = some w ∧ w.toNat = x.toNat) ∧
        r.vval? = none ∧ r.vsize? = none ∧ r.olen? = none ∧ r.obytes? = none
    | .decodeVarInt _ _ | .decodeVarIntReversed _ _ =>
      (∃ (v : Word64) (k : Nat) (z : BitVec 4), r = .ok (.varInt v k) ∧ r.vval? = some v ∧ r.vsize? = some z ∧ z.toNat = k) ∧
        r.word? = none ∧ r.olen? = none ∧ r.obytes? = none
    | .encodeVarInt _ _ =>
      (∃ (out : ByteSeq) (len : BitVec 4), r = .ok (.bytes out) ∧ r.obytes? = some out ∧ r.olen? = some len ∧
        len.toNat = out.length) ∧ r.word? = none ∧ r.vval? = none ∧ r.vsize? = none
    | .reservedReversedEncoder | .reserved101 _ | .reserved11 _ => False

/-! ### Encoding of requests -/

/-- Operation selects written out from the operation map (the spec's decision D4; log 8). -/
def Obligations.SampleRequestsDecode : Prop :=
  decode (Request.bare 0b0000#4) = .readShort [] 0 ∧
  decode { op := 0b0101#4, seq := [0x12#8], off := -1, val := 7#64, size := 3 } = .readLongReversed [0x12#8] (-1) ∧
  decode { op := 0b0110#4, seq := [0xFC#8], off := 0, val := 7#64, size := 3 } = .decodeVarInt [0xFC#8] 0 ∧
  decode { op := 0b1000#4, seq := [0x12#8], off := -1, val := 300#64, size := 3 } = .encodeVarInt 300#64 3 ∧
  decode { op := 0b1001#4, seq := [0x12#8], off := -1, val := 300#64, size := 3 } = .reservedReversedEncoder

/-- R97's decoding and R95's map agree (decisions D4, D5): each of the 16 values of OP lies in exactly one row of the map, the row
of the instruction it decodes to: that row is in the map, and of the map's rows it alone covers OP. -/
def Obligations.EveryOpLiesInTheRowItDecodesTo : Prop :=
  ∀ q : Request, (decode q).row ∈ opRows ∧ ∀ row ∈ opRows, (row.covers q.op = true ↔ row = (decode q).row)

/-- Decode and encode agree on every instruction, over the interface of bounded words at every width of OFF and SIZE (R91, R98,
R99, the spec's decisions D3, D4, D7, D9; log 8, log 11). -/
def Obligations.WireRoundTrip : Prop :=
  ∀ (p : Params) (i : Instr), WellFormed p i = true → acceptWire p (encodeWire p i) = .ok i

/-- A request is its instruction and the operand fields its operation ignores (R93, decision D3): encoding what it decodes to
gives the same OP, and a request that decodes the same. -/
def Obligations.EncodeKeepsTheOperation : Prop :=
  ∀ q : Request, (encode (decode q)).op = q.op ∧ decode (encode (decode q)) = decode q

/-- Ignored operands have no effect on the response (R93, decision D3). -/
def Obligations.IgnoredOperandsHaveNoEffect : Prop :=
  ∀ (q : Request) (seq : ByteSeq) (off : Int) (val : Word64) (size : Int) (p : Params),
    (q.op.toNat ≤ 7 → responseAlone p { q with val := val, size := size } = responseAlone p q) ∧
    (q.op.toNat = 8 → responseAlone p { q with seq := seq, off := off } = responseAlone p q) ∧
    (9 ≤ q.op.toNat → responseAlone p { q with seq := seq, off := off, val := val, size := size } = responseAlone p q)

/-- An offset on the bus is two's complement (R98, decision D7; log 11): a word with its top bit set is a negative offset, so
every read and decode of it answers OutOfBounds, at every width. -/
def Obligations.BusOffsetsWithTheTopBitSetAreNegative : Prop :=
  ∀ (p : Params) (w : WireRequest p), w.off.msb = true → w.op.toNat ≤ 7 →
    w.toRequest.off < 0 ∧ responseAlone p w.toRequest = some (.error .outOfBounds)

/-- P_MAX_LEN (R13, decision D8; log 10): with no limit every request joins the requests in flight; with a limit a request whose
operation uses a longer sequence does not, and an encode or reserved request always does. -/
def Obligations.LengthLimitBoundsTheSequenceAlone : Prop :=
  ∀ (s : State) (h : HostId) (q : Request),
    (s.params.maxLen = none → s.issue h q = .ok { s with waiting := s.waiting ++ [⟨h, q⟩] }) ∧
    (∀ m, s.params.maxLen = some m → q.op.toNat ≤ 7 →
      s.issue h q = if q.seq.length ≤ m then .ok { s with waiting := s.waiting ++ [⟨h, q⟩] }
        else .error .sequenceTooLong) ∧
    (8 ≤ q.op.toNat → s.issue h q = .ok { s with waiting := s.waiting ++ [⟨h, q⟩] })

/-! ### The machine -/

/-- What every instruction leaves unchanged: the parameters, the requests in flight, every byte of every sequence they borrow, and
the responses the hosts hold (R61, R73, R75, R129, R185).  The response is the one thing an instruction writes. -/
def Obligations.ExecFrame : Prop :=
  ∀ (i : Instr) (s t : State), exec i s = .next t →
    t.params = s.params ∧ t.waiting = s.waiting ∧ t.delivered = s.delivered ∧
    ∀ k a : Nat, (t.waiting[k]?.map fun q => byteAt q.request.seq a) = s.waiting[k]?.map fun q => byteAt q.request.seq a

/-- The response is a function of the request alone (R30, R75, decision D1): two states give one response to one instruction if
their PAYLOAD_EXT agrees, and to anything but a decode even if it does not. -/
def Obligations.ResponseDependsOnTheRequestAlone : Prop :=
  ∀ (i : Instr) (s t : State),
    s.params.payloadExt = t.params.payloadExt ∨
      ((∀ seq off, i ≠ .decodeVarInt seq off) ∧ (∀ seq off, i ≠ .decodeVarIntReversed seq off)) →
    ∃ r : Response, exec i s = .next (s.answering r) ∧ exec i t = .next (t.answering r)

/-- A step runs the decoded instruction: it takes the request at the head of those in flight, runs exec of what it decodes to, and
hands the response to its host; with none in flight the state stays as it is (the model's choice, log 4 to log 6). -/
def Obligations.StepRunsTheDecodedRequest : Prop :=
  ∀ (s : State),
    (s.waiting = [] → step s = .next s) ∧
    (∀ (q : Issued) (rest : List Issued), s.waiting = q :: rest → ∃ (t : State) (r : Response),
      exec (decode q.request) { s with waiting := rest } = .next t ∧ t.response = some r ∧
      step s = .next { t with response := none, delivered := s.delivered ++ [⟨q.host, q.request, r⟩] })

/-- The unit never stops (R30, R221: after any response, error or not, it takes the next request).  With no request in flight it
idles, the model's choice (log 6). -/
def Obligations.TheUnitNeverStops : Prop := ∀ s : State, NeverStops s

/-- Reset (R240, decision D17): nothing in flight, no response, and R13's default parameters.  That no host holds
an answer yet is the model's record (log 5). -/
def Obligations.ResetLeavesNothingInFlight : Prop :=
  State.reset.waiting = [] ∧ State.reset.response = none ∧ State.reset.delivered = [] ∧
  State.reset.params.payloadExt = .zero ∧ State.reset.params.offsetBits = 32 ∧
  State.reset.params.sizeBits = 32 ∧ State.reset.params.maxLen = none

/-- A request cut off by reset gets no response (R241, decision D17; log 13): no move between the reset and the next issue
delivers anything. -/
def Obligations.ResetCutsRequestsOff : Prop :=
  ∀ (s : State) (k : Nat), ∃ t, Sys2Proof.core.run k s.assertReset = .next t ∧
    t.delivered = s.delivered ∧ t.waiting = [] ∧ t.params = s.params

/-- Both invariants hold at reset. -/
def Obligations.ResetMeetsTheInvariants : Prop := Inv State.reset ∧ AnsweredAsAlone State.reset

/-- Every step keeps the invariant: the requests in flight are accepted ones, no response is left over, and every response a host
holds is legal: a VarInt of size 1, 3, 5 or 9 with a value of that size, an output of that length with its prefix (R100, R153,
R185). -/
def Obligations.StepKeepsTheInvariant : Prop := ∀ s t : State, Inv s → step s = .next t → Inv t

/-- Every move of the hosts, the unit and the reset line keeps the invariant (the moves are the model's form of R40 and R241, log 4,
log 13). -/
def Obligations.EveryMoveKeepsTheInvariant : Prop :=
  ∀ (e : Event) (s t : State), Inv s → react e s = .next t → Inv t

/-- Every interleaving gives each request the response it would get alone (R79, R226, decision D21): any run of moves, with any
number of hosts, ends with every host holding, for every request answered, the response of that request run alone.  The list of requests in
flight and the moves are the model's (log 4, log 5). -/
def Obligations.EveryInterleavingAnswersAsAlone : Prop :=
  ∀ (es : List Event) (s : State), AnsweredAsAlone s →
    ∃ t, runEvents es s = .next t ∧ AnsweredAsAlone t ∧ t.params = s.params

/-- Every request in flight is answered within as many steps as there are requests, each with the response it gets alone, to the
host that issued it (R215, R249, decision D23).  One step a request, oldest first, is the model's choice (log 4, log 15). -/
def Obligations.EveryRequestIsAnswered : Prop :=
  ∀ s : State, s.response = none → ∃ t, Sys2Proof.core.run s.waiting.length s = .next t ∧
    t.waiting = [] ∧ t.response = none ∧ t.params = s.params ∧
    ∃ answers : List Delivered, t.delivered = s.delivered ++ answers ∧
      answers.map (fun d => (⟨d.host, d.request⟩ : Issued)) = s.waiting ∧
      ∀ d ∈ answers, responseAlone s.params d.request = some d.response

/-- The order in which the requests in flight are answered changes no response (R79, R226): whichever is chosen first, the same
requests are answered, each as alone.  The list of requests in flight is the model's (log 4). -/
def Obligations.ChoosingTheNextRequestChangesNoResponse : Prop :=
  ∀ (s : State) (j : Nat) (q : Issued), s.response = none → s.waiting[j]? = some q → ∃ (t : State) (r : Response),
    runEvents [.choose j, .serve] s = .next t ∧ t.params = s.params ∧
    t.delivered = s.delivered ++ [⟨q.host, q.request, r⟩] ∧ responseAlone s.params q.request = some r ∧
    (q :: t.waiting).Perm s.waiting
end

