-- ==== Sys2Proof/Laws/State.lean ====
section
/-! SUPPORT. One lemma per field per update of the state. -/

namespace Sys2Proof.Machine

variable (s : State) (r : Response) (q : Issued) (k : Nat)

@[simp] theorem State.reset_params : State.reset.params = Params.default := rfl
@[simp] theorem State.reset_waiting : State.reset.waiting = [] := rfl
@[simp] theorem State.reset_response : State.reset.response = none := rfl
@[simp] theorem State.reset_delivered : State.reset.delivered = [] := rfl

@[simp] theorem State.answering_params : (s.answering r).params = s.params := rfl
@[simp] theorem State.answering_waiting : (s.answering r).waiting = s.waiting := rfl
@[simp] theorem State.answering_response : (s.answering r).response = some r := rfl
@[simp] theorem State.answering_delivered : (s.answering r).delivered = s.delivered := rfl

@[simp] theorem State.assertReset_params : s.assertReset.params = s.params := rfl
@[simp] theorem State.assertReset_waiting : s.assertReset.waiting = [] := rfl
@[simp] theorem State.assertReset_response : s.assertReset.response = none := rfl
@[simp] theorem State.assertReset_delivered : s.assertReset.delivered = s.delivered := rfl

@[simp] theorem State.handOver_params : (s.handOver q).params = s.params := by
  unfold State.handOver; split <;> rfl
@[simp] theorem State.handOver_waiting : (s.handOver q).waiting = s.waiting := by
  unfold State.handOver; split <;> rfl
@[simp] theorem State.handOver_response : (s.handOver q).response = none := by
  unfold State.handOver; split <;> simp_all

/-- What a host has received after the hand-over of a response. -/
theorem State.handOver_delivered_of_some (h : s.response = some r) :
    (s.handOver q).delivered = s.delivered ++ [⟨q.host, q.request, r⟩] := by
  simp [State.handOver, h]

@[simp] theorem State.choose_params : (s.choose k).params = s.params := by
  unfold State.choose; split <;> rfl
@[simp] theorem State.choose_response : (s.choose k).response = s.response := by
  unfold State.choose; split <;> rfl
@[simp] theorem State.choose_delivered : (s.choose k).delivered = s.delivered := by
  unfold State.choose; split <;> rfl

/-- Choosing which request comes next loses none and adds none. -/
theorem State.choose_waiting_perm : (s.choose k).waiting.Perm s.waiting := by
  unfold State.choose
  split
  · exact List.Perm.refl _
  · next q h =>
    obtain ⟨hk, rfl⟩ := List.getElem?_eq_some_iff.mp h
    exact List.getElem_cons_eraseIdx_perm hk

end Sys2Proof.Machine
end

