-- ==== Sys2Proof/Laws/Decode.lean ====
section
/-! SUPPORT. Decoding, one lemma per value of OP[3:0], each written out from the operation map (R95): the bits of OP are F in
bits 3 to 1 and R in bit 0. -/

namespace Sys2Proof

variable (seq : ByteSeq) (off : Int) (val : Word64) (size : Int)

theorem decode_op_0000 : decode ⟨0b0000#4, seq, off, val, size⟩ = .readShort seq off := by
  simp [decode, opF, opR, selectR]

theorem decode_op_0001 : decode ⟨0b0001#4, seq, off, val, size⟩ = .readShortReversed seq off := by
  simp [decode, opF, opR, selectR]

theorem decode_op_0010 : decode ⟨0b0010#4, seq, off, val, size⟩ = .readInt seq off := by
  simp [decode, opF, opR, selectR]

theorem decode_op_0011 : decode ⟨0b0011#4, seq, off, val, size⟩ = .readIntReversed seq off := by
  simp [decode, opF, opR, selectR]

theorem decode_op_0100 : decode ⟨0b0100#4, seq, off, val, size⟩ = .readLong seq off := by
  simp [decode, opF, opR, selectR]

theorem decode_op_0101 : decode ⟨0b0101#4, seq, off, val, size⟩ = .readLongReversed seq off := by
  simp [decode, opF, opR, selectR]

theorem decode_op_0110 : decode ⟨0b0110#4, seq, off, val, size⟩ = .decodeVarInt seq off := by
  simp [decode, opF, opR, selectR]

theorem decode_op_0111 : decode ⟨0b0111#4, seq, off, val, size⟩ = .decodeVarIntReversed seq off := by
  simp [decode, opF, opR, selectR]

theorem decode_op_1000 : decode ⟨0b1000#4, seq, off, val, size⟩ = .encodeVarInt val size := by
  simp [decode, opF, opR, selectR]

theorem decode_op_1001 : decode ⟨0b1001#4, seq, off, val, size⟩ = .reservedReversedEncoder := by
  simp [decode, opF, opR, selectR]

theorem decode_op_1010 : decode ⟨0b1010#4, seq, off, val, size⟩ = .reserved101 0#1 := by
  simp [decode, opF, opR]

theorem decode_op_1011 : decode ⟨0b1011#4, seq, off, val, size⟩ = .reserved101 1#1 := by
  simp [decode, opF, opR]

theorem decode_op_1100 : decode ⟨0b1100#4, seq, off, val, size⟩ = .reserved11 0#2 := by
  simp [decode, opF]

theorem decode_op_1101 : decode ⟨0b1101#4, seq, off, val, size⟩ = .reserved11 1#2 := by
  simp [decode, opF]

theorem decode_op_1110 : decode ⟨0b1110#4, seq, off, val, size⟩ = .reserved11 2#2 := by
  simp [decode, opF]

theorem decode_op_1111 : decode ⟨0b1111#4, seq, off, val, size⟩ = .reserved11 3#2 := by
  simp [decode, opF]

/-- A 4-bit operation select is one of the sixteen. -/
theorem op_cases (op : BitVec 4) :
    op = 0b0000#4 ∨ op = 0b0001#4 ∨ op = 0b0010#4 ∨ op = 0b0011#4 ∨ op = 0b0100#4 ∨ op = 0b0101#4 ∨ op = 0b0110#4 ∨
    op = 0b0111#4 ∨ op = 0b1000#4 ∨ op = 0b1001#4 ∨ op = 0b1010#4 ∨ op = 0b1011#4 ∨ op = 0b1100#4 ∨ op = 0b1101#4 ∨
    op = 0b1110#4 ∨ op = 0b1111#4 := by
  revert op
  decide

end Sys2Proof
end

