-- ==== Sys2Proof/Laws/Flags.lean ====
section
/-! SUPPORT. The bus fields of each response (R94): one lemma per field a response has, and one for an error's. -/

namespace Sys2Proof.Machine

variable (v : Word64) (k : Nat) (out : ByteSeq) (r : Result) (e : ErrorKind)

@[simp] theorem Response.status_ok : (Response.ok r).status = 0b00#2 := rfl
@[simp] theorem Response.status_error : (Response.error e).status = e.status := rfl

/-- STATUS is 00 exactly for a response with a result. -/
theorem Response.status_eq_ok_iff (x : Response) : x.status = 0b00#2 ↔ ∃ r, x = .ok r := by
  cases x with
  | ok r => simp
  | error e => cases e <;> simp [ErrorKind.status]

@[simp] theorem Response.word?_word16 (w : BitVec 16) : (Response.ok (.word16 w)).word? = some (w.setWidth 64) := rfl
@[simp] theorem Response.word?_word32 (w : BitVec 32) : (Response.ok (.word32 w)).word? = some (w.setWidth 64) := rfl
@[simp] theorem Response.word?_word64 (w : BitVec 64) : (Response.ok (.word64 w)).word? = some w := rfl
@[simp] theorem Response.vval?_varInt : (Response.ok (.varInt v k)).vval? = some v := rfl
@[simp] theorem Response.vsize?_varInt : (Response.ok (.varInt v k)).vsize? = some (BitVec.ofNat 4 k) := rfl
@[simp] theorem Response.obytes?_bytes : (Response.ok (.bytes out)).obytes? = some out := rfl
@[simp] theorem Response.olen?_bytes : (Response.ok (.bytes out)).olen? = some (BitVec.ofNat 4 out.length) := rfl

/-- An error response has no result field (R216). -/
theorem Response.fields_error :
    (Response.error e).word? = none ∧ (Response.error e).vval? = none ∧ (Response.error e).vsize? = none ∧
    (Response.error e).olen? = none ∧ (Response.error e).obytes? = none := ⟨rfl, rfl, rfl, rfl, rfl⟩

end Sys2Proof.Machine
end

