-- ==== Sys2Proof/Laws/Operands.lean ====
section
/-! SUPPORT. One lemma per operand form: what the bounds check, the byte fetch and the compositions give. -/

namespace Sys2Proof.Machine

variable {seq : ByteSeq} {off : Int} {n : Nat}

/-- The bounds check passes exactly the admitted reads (R63). -/
theorem checkBounds_eq (seq : ByteSeq) (off : Int) (n : Nat) :
    checkBounds seq off n = if Admitted seq off n then .ok () else .error .outOfBounds := by
  unfold checkBounds
  by_cases h : Admitted seq off n
  · rw [if_neg (by unfold Admitted at h; omega), if_pos h]
  · rw [if_pos (by unfold Admitted at h; omega), if_neg h]

/-- An admitted access fetches its window, any other raises OutOfBounds. -/
theorem fetchBytes_eq (seq : ByteSeq) (off : Int) (n : Nat) :
    fetchBytes seq off n =
      if Admitted seq off n then .ok (window seq off.toNat n) else .error .outOfBounds := by
  unfold fetchBytes
  rw [checkBounds_eq]
  by_cases h : Admitted seq off n
  · rw [if_pos h, if_pos h]
  · rw [if_neg h, if_neg h]

theorem readBE_of_admitted (h : Admitted seq off n) :
    readBE seq off n = .ok (composeBE (8 * n) (window seq off.toNat n)) := by
  simp only [readBE, fetchBytes_eq, if_pos h]

theorem readBE_of_not_admitted (h : ¬ Admitted seq off n) : readBE seq off n = .error .outOfBounds := by
  simp only [readBE, fetchBytes_eq, if_neg h]

theorem readLE_of_admitted (h : Admitted seq off n) :
    readLE seq off n = .ok (composeLE (8 * n) (window seq off.toNat n)) := by
  simp only [readLE, fetchBytes_eq, if_pos h]

theorem readLE_of_not_admitted (h : ¬ Admitted seq off n) : readLE seq off n = .error .outOfBounds := by
  simp only [readLE, fetchBytes_eq, if_neg h]

/-- An admitted window has exactly the bytes asked for. -/
theorem window_length (h : Admitted seq off n) : (window seq off.toNat n).length = n := by
  unfold Admitted at h
  simp only [window, List.length_take, List.length_drop]
  omega

@[simp] theorem leBytes_length (v : Word64) (n : Nat) : (leBytes v n).length = n := by
  simp [leBytes]

end Sys2Proof.Machine
end

