-- ==== Sys2Proof/Laws/Ops.lean ====
section
/-! SUPPORT. One lemma per named operation over the state: everything it can do. -/

namespace Sys2Proof.Machine

variable (s : State)

theorem succeed_eq (r : Result) : succeed r s = .next (s.answering (.ok r)) := rfl

theorem raise_eq (e : ErrorKind) : raise e s = .next (s.answering (.error e)) := rfl

/-- An operation's response is its result or its error; it writes the response and nothing else. -/
theorem respond_eq (r : Except ErrorKind Result) :
    respond r s = .next (s.answering (match r with | .ok v => .ok v | .error e => .error e)) := by
  cases r <;> rfl

theorem takeRequest_nil (h : s.waiting = []) : s.takeRequest = none := by
  simp [State.takeRequest, h]

theorem takeRequest_cons {q : Issued} {rest : List Issued} (h : s.waiting = q :: rest) :
    s.takeRequest = some (q, { s with waiting := rest }) := by
  simp [State.takeRequest, h]

theorem deliver_next (q : Issued) (t : State) : deliver q (.next t) = .next (t.handOver q) := rfl

/-- A request joins the requests in flight exactly where the unit accepts it. -/
theorem issue_eq (h : HostId) (q : Request) :
    s.issue h q =
      if Accepted s.params (decode q) then .ok { s with waiting := s.waiting ++ [⟨h, q⟩] }
      else .error .sequenceTooLong := by
  unfold State.issue accept
  by_cases hacc : Accepted s.params (decode q) = true <;> simp [hacc]

end Sys2Proof.Machine
end

