-- ==== Sys2Proof/Laws/PerInstr.lean ====
section
/-! SUPPORT. Facts about every instruction as syntax, one lemma per constructor. -/

namespace Sys2Proof.Laws.OpMap

/-- A row of the operation map covers an operation select, and no other row does. -/
abbrev Owns (row : OpRow) (op : BitVec 4) : Prop :=
  row ∈ opRows ∧ row.covers op = true ∧ ∀ other ∈ opRows, other.covers op = true → other = row

/-- The instruction's operation select lies in its row of the operation map, and in no other row (R95, R97). -/
def Statement (i : Instr) : Prop := Owns i.row (opcode i)

theorem readShort (seq : ByteSeq) (off : Int) : Statement (.readShort seq off) := by
  show Owns ⟨"readShort", 0xF#4, 0x0#4⟩ 0x0#4
  decide

theorem readShortReversed (seq : ByteSeq) (off : Int) : Statement (.readShortReversed seq off) := by
  show Owns ⟨"readShortReversed", 0xF#4, 0x1#4⟩ 0x1#4
  decide

theorem readInt (seq : ByteSeq) (off : Int) : Statement (.readInt seq off) := by
  show Owns ⟨"readInt", 0xF#4, 0x2#4⟩ 0x2#4
  decide

theorem readIntReversed (seq : ByteSeq) (off : Int) : Statement (.readIntReversed seq off) := by
  show Owns ⟨"readIntReversed", 0xF#4, 0x3#4⟩ 0x3#4
  decide

theorem readLong (seq : ByteSeq) (off : Int) : Statement (.readLong seq off) := by
  show Owns ⟨"readLong", 0xF#4, 0x4#4⟩ 0x4#4
  decide

theorem readLongReversed (seq : ByteSeq) (off : Int) : Statement (.readLongReversed seq off) := by
  show Owns ⟨"readLongReversed", 0xF#4, 0x5#4⟩ 0x5#4
  decide

theorem decodeVarInt (seq : ByteSeq) (off : Int) : Statement (.decodeVarInt seq off) := by
  show Owns ⟨"decodeVarInt", 0xF#4, 0x6#4⟩ 0x6#4
  decide

theorem decodeVarIntReversed (seq : ByteSeq) (off : Int) : Statement (.decodeVarIntReversed seq off) := by
  show Owns ⟨"decodeVarIntReversed", 0xF#4, 0x7#4⟩ 0x7#4
  decide

theorem encodeVarInt (val : Word64) (size : Int) : Statement (.encodeVarInt val size) := by
  show Owns ⟨"encodeVarInt", 0xF#4, 0x8#4⟩ 0x8#4
  decide

theorem reservedReversedEncoder : Statement .reservedReversedEncoder := by
  show Owns ⟨"reserved__no_reversed_encoder", 0xF#4, 0x9#4⟩ 0x9#4
  decide

theorem reserved101 (r : BitVec 1) : Statement (.reserved101 r) := by
  show Owns ⟨"(reserved)", 0xE#4, 0xA#4⟩ (0b101#3 ++ r)
  revert r
  decide

theorem reserved11 (x : BitVec 2) : Statement (.reserved11 x) := by
  show Owns ⟨"(reserved)", 0xC#4, 0xC#4⟩ (0b11#2 ++ x)
  revert x
  decide

end Sys2Proof.Laws.OpMap
end

