-- ==== Sys2Proof/Laws/Step.lean ====
section
/-! SUPPORT. What a step and a run of steps are, in the terms of exec: later proofs need not unfold them. -/

namespace Sys2Proof.Machine

variable {s t : State} {q : Issued} {rest : List Issued}

theorem step_of_waiting_nil (h : s.waiting = []) : step s = .next s := by
  unfold step; rw [takeRequest_nil s h]

theorem step_of_waiting_cons (h : s.waiting = q :: rest) :
    step s = deliver q (exec (decode q.request) { s with waiting := rest }) := by
  unfold step; rw [takeRequest_cons s h]

theorem run_zero (s : State) : Sys2Proof.core.run 0 s = .next s := rfl

theorem run_succ_of_next (k : Nat) (h : step s = .next t) :
    Sys2Proof.core.run (k + 1) s = Sys2Proof.core.run k t := by
  show Host.Core.run Sys2Proof.core (k + 1) s = Host.Core.run Sys2Proof.core k t
  simp only [Host.Core.run, show Sys2Proof.core.step s = .next t from h]

end Sys2Proof.Machine
end

