-- ==== Sys2Proof/Tests/Slice0.lean ====
section
/-! SUPPORT. Tests of one request each, their expected results taken from spec/95_test_vectors.md (the vector's number stands in
the comment) or written out from the encoding tables; and, for every statement with hypotheses, a witness that meets them. -/

namespace Sys2Proof.Tests

open Sys2Proof Sys2Proof.Machine

/-- The response an outcome carries. -/
def responseOf (o : Host.Outcome State Fault Refusal) : Option Response :=
  match o with
  | .next t => t.response
  | .fault _ => none
  | .refused _ => none

/-- The state an outcome carries. -/
def stateOf (o : Host.Outcome State Fault Refusal) : Option State :=
  match o with
  | .next t => some t
  | .fault _ => none
  | .refused _ => none

/-- The response to an instruction right after reset. -/
def ask (i : Instr) : Option Response := responseOf (exec i State.reset)

/-- The state right after reset, but with PAYLOAD_EXT = sign. -/
def signState : State := { State.reset with params := { Params.default with payloadExt := .sign } }

/-- The sequence B of 95_test_vectors.md section 2.1. -/
def B : ByteSeq := [0x01#8, 0x23#8, 0x45#8, 0x67#8, 0x89#8, 0xAB#8, 0xCD#8, 0xEF#8, 0xFF#8]

/-- `k` bytes 0x00 and then 0x01. -/
def zerosThenOne (k : Nat) : ByteSeq := List.replicate k 0x00#8 ++ [0x01#8]

/-! ### Well-formedness: each check refuses a term -/

/-- The parameters of a unit that accepts at most two bytes. -/
def shortUnit : Params := { Params.default with maxLen := some 2 }

theorem test_accepted_refuses_a_long_sequence :
    Accepted shortUnit (.readShort [0#8, 0#8, 0#8] 0) = false ∧ Accepted shortUnit (.readShort [0#8, 0#8] 0) = true := by decide

theorem test_carriesOff_refuses_an_offset_of_33_bits :
    CarriesOff Params.default (.readInt [] 2147483648) = false ∧ CarriesOff Params.default (.readInt [] 2147483647) = true ∧
    CarriesOff Params.default (.readInt [] (-2147483649)) = false ∧
    CarriesOff Params.default (.readInt [] (-2147483648)) = true := by decide

theorem test_carriesSize_refuses_a_size_of_33_bits :
    CarriesSize Params.default (.encodeVarInt 0#64 2147483648) = false ∧
    CarriesSize Params.default (.encodeVarInt 0#64 9) = true := by decide

theorem test_accept_rejects_by_name :
    accept shortUnit { Request.bare 0x0#4 with seq := [0#8, 0#8, 0#8] } = .error .sequenceTooLong := by rfl

/-! ### Decoding: words written out bit by bit from R92's table, F in bits 3 to 1, R in bit 0 -/

theorem test_decode_readIntReversed : decodeTableWord 8 0b00000011 = some (.readIntReversed [] 0) := by decide
theorem test_decode_readLong : decodeTableWord 8 0b00000100 = some (.readLong [] 0) := by decide
theorem test_decode_decodeVarInt : decodeTableWord 8 0b00000110 = some (.decodeVarInt [] 0) := by decide
theorem test_decode_encodeVarInt : decodeTableWord 8 0b00001000 = some (.encodeVarInt 0#64 0) := by decide
theorem test_decode_reserved_slot : decodeTableWord 8 0b00001001 = some .reservedReversedEncoder := by decide
theorem test_decode_reserved_101x : decodeTableWord 8 0b00001011 = some (.reserved101 1#1) := by decide
theorem test_decode_reserved_11xx : decodeTableWord 8 0b00001110 = some (.reserved11 2#2) := by decide
theorem test_no_request_above_OP : decodeTableWord 8 0b00010000 = none := by decide

/-- Every word of the table's four bits decodes, and step runs it as the first request after reset. -/
theorem test_fetch_word_is_answered : ∀ w : Fin 16, ((stateOf (step (State.reset.withFetchWord 8 w))).map
    fun t => (t.waiting.length, t.delivered.length)) = some (0, 1) := by decide

/-! ### The fixed-width reader -/

-- F1, F7
theorem test_readShort : ask (.readShort B 0) = some (.ok (.word16 0x0123#16)) := by decide
theorem test_readShort_short : ask (.readShort B 8) = some (.error .outOfBounds) := by decide
-- F6, F8
theorem test_readShortReversed_last : ask (.readShortReversed B 7) = some (.ok (.word16 0xFFEF#16)) := by decide
theorem test_readShortReversed_at_length : ask (.readShortReversed B 9) = some (.error .outOfBounds) := by decide
-- F17, S1
theorem test_readInt_last : ask (.readInt B 5) = some (.ok (.word32 0xABCDEFFF#32)) := by decide
theorem test_readInt_source : ask (.readInt [0#8, 0#8, 0#8, 1#8] 0) = some (.ok (.word32 1#32)) := by decide
-- S2, F20
theorem test_readIntReversed_source : ask (.readIntReversed [0#8, 0#8, 0#8, 1#8] 0) = some (.ok (.word32 16777216#32)) := by
  decide
theorem test_readIntReversed_negative : ask (.readIntReversed B (-1)) = some (.error .outOfBounds) := by decide
-- F22, F26
theorem test_readLong : ask (.readLong B 0) = some (.ok (.word64 0x0123456789ABCDEF#64)) := by decide
theorem test_readLong_short : ask (.readLong B 2) = some (.error .outOfBounds) := by decide
-- F25, F29
theorem test_readLongReversed_last : ask (.readLongReversed B 1) = some (.ok (.word64 0xFFEFCDAB89674523#64)) := by decide
theorem test_readLongReversed_top : ask (.readLongReversed (zerosThenOne 7) 0) = some (.ok (.word64 0x0100000000000000#64)) := by
  decide

/-! ### The VarInt decoder -/

-- V9 under both values of PAYLOAD_EXT
theorem test_decodeVarInt_top_bit : ask (.decodeVarInt [0xFD#8, 0x80#8, 0x00#8] 0) = some (.ok (.varInt 32768#64 3)) := by decide
theorem test_decodeVarInt_sign : responseOf (exec (.decodeVarInt [0xFD#8, 0x80#8, 0x00#8] 0) signState) =
    some (.ok (.varInt 18446744073709518848#64 3)) := by decide
-- V19, V15
theorem test_decodeVarIntReversed_offset :
    ask (.decodeVarIntReversed [0xAA#8, 0xFD#8, 0x34#8, 0x12#8] 1) = some (.ok (.varInt 0x1234#64 3)) := by decide
theorem test_decodeVarIntReversed_long :
    ask (.decodeVarIntReversed (0xFF#8 :: zerosThenOne 7) 0) = some (.ok (.varInt 72057594037927936#64 9)) := by decide

/-! ### The VarInt encoder and the reserved selects -/

-- S6, E9
theorem test_encodeVarInt_source : ask (.encodeVarInt 300#64 3) = some (.ok (.bytes [0xFD#8, 0x2C#8, 0x01#8])) := by decide
theorem test_encodeVarInt_wide : ask (.encodeVarInt 65536#64 3) = some (.ok (.bytes [0xFD#8, 0x00#8, 0x00#8])) := by decide
-- E10, E18
theorem test_encodeVarInt_five :
    ask (.encodeVarInt 16909060#64 5) = some (.ok (.bytes [0xFE#8, 0x04#8, 0x03#8, 0x02#8, 0x01#8])) := by decide
theorem test_encodeVarInt_payload_width : ask (.encodeVarInt 1#64 8) = some (.error .invalidSize) := by decide
-- O2, O3
theorem test_reserved : ask .reservedReversedEncoder = some (.error .illegalOp) ∧ ask (.reserved101 1#1) = some (.error .illegalOp) ∧
    ask (.reserved11 3#2) = some (.error .illegalOp) := by decide

/-- WORD holds the N-bit result with zeros above (R94): the top bits of F11 and F21 are not carried up. -/
theorem test_bus_word : (Response.ok (.word16 0x8000#16)).word? = some 0x8000#64 ∧
    (Response.ok (.word32 0x80000000#32)).word? = some 0x80000000#64 := by decide

/-- An offset word of 32 ones on the bus is -1 (R98). -/
theorem test_issueWire_offset :
    (match State.reset.issueWire 0 ⟨0x0#4, B, 0xFFFFFFFF#32, 0#64, 3#32⟩ with
      | .ok t => t.waiting.map fun q => (q.request.off, q.request.size)
      | .error _ => []) = [(-1, 3)] := by decide

/-- Two hosts, answered in the order of their requests; each receives its own response (R215, R226). -/
theorem test_two_hosts :
    (stateOf (runEvents [.issue 7 { Request.bare 0x0#4 with seq := B }, .issue 8 { Request.bare 0x9#4 with val := 300#64 },
      .choose 1, .serve, .serve] State.reset)).map (fun t => t.delivered.map fun d => (d.host, d.response)) =
    some [(8, .error .illegalOp), (7, .ok (.word16 0x0123#16))] := by decide

/-! ### Witnesses: each meets all hypotheses of the statement it is named after -/

theorem witness_BigEndianReadsGiveTheSum :
    Admitted B 0 2 ∧ Admitted B 7 2 ∧ Admitted B 0 4 ∧ Admitted B 5 4 ∧ Admitted B 0 8 ∧ Admitted B 1 8 := by decide

theorem witness_ReversedReadsGiveTheSum :
    Admitted B 0 2 ∧ Admitted B 7 2 ∧ Admitted B 0 4 ∧ Admitted B 5 4 ∧ Admitted B 0 8 ∧ Admitted B 1 8 := by decide

/-- Both sides of `OutOfBoundsExactly`'s equivalences, at their boundary. -/
theorem witness_OutOfBoundsExactly :
    ask (.readShort B 7) = some (.ok (.word16 0xEFFF#16)) ∧ ask (.readShort B (-1)) = some (.error .outOfBounds) ∧
    ask (.decodeVarInt [0xFC#8] 0) = some (.ok (.varInt 252#64 1)) ∧ ask (.decodeVarInt [0xFD#8] 0) = some (.error .outOfBounds) ∧
    ask (.decodeVarIntReversed [] 0) = some (.error .outOfBounds) := by decide

theorem witness_EndianSymmetry : Admitted B 7 2 ∧ Admitted B 5 4 ∧ Admitted B 1 8 := by decide

theorem witness_WideReadsAreTwoHalves : Admitted B 0 4 ∧ Admitted B 5 4 ∧ Admitted B 0 8 ∧ Admitted B 1 8 := by decide

theorem witness_ReadsSeeTheirWindowAlone :
    (Admitted B 8 1 ∧ Admitted B 0 2 ∧ Admitted (0xAA#8 :: B) 1 2 ∧
      ∀ i < 2, byteAt B ((0 : Int).toNat + i) = byteAt (0xAA#8 :: B) ((1 : Int).toNat + i)) ∧
    (Admitted B 0 4 ∧ Admitted (0xAA#8 :: B) 1 4 ∧
      ∀ i < 4, byteAt B ((0 : Int).toNat + i) = byteAt (0xAA#8 :: B) ((1 : Int).toNat + i)) ∧
    (Admitted B 0 8 ∧ Admitted (0xAA#8 :: B) 1 8 ∧
      ∀ i < 8, byteAt B ((0 : Int).toNat + i) = byteAt (0xAA#8 :: B) ((1 : Int).toNat + i)) := by decide

/-- Both clauses at their boundary discriminants, 252 and 253. -/
theorem witness_DiscriminantIsUnsignedInBothVariants :
    (Admitted [0xFC#8] 0 1 ∧ byteAt [0xFC#8] (0 : Int).toNat ≤ 252) ∧
    (Admitted [0xFD#8, 1#8, 0#8] 0 (1 + payloadWidth (byteAt [0xFD#8, 1#8, 0#8] (0 : Int).toNat)) ∧
      253 ≤ byteAt [0xFD#8, 1#8, 0#8] (0 : Int).toNat) := by decide

theorem witness_PayloadOrderFollowsTheVariant :
    (Admitted [0xFD#8, 1#8, 0#8] 0 (1 + 2) ∧ byteAt [0xFD#8, 1#8, 0#8] (0 : Int).toNat = 253) ∧
    (Admitted (0xFE#8 :: zerosThenOne 3) 0 (1 + 4) ∧ byteAt (0xFE#8 :: zerosThenOne 3) (0 : Int).toNat = 254) ∧
    (Admitted (0xFF#8 :: zerosThenOne 7) 0 (1 + 8) ∧ byteAt (0xFF#8 :: zerosThenOne 7) (0 : Int).toNat = 255) := by decide

/-- A payload on each side of the sign clause, at the boundary, for each order. -/
theorem witness_PayloadWidening :
    (Admitted [0xFD#8, 0x7F#8, 0xFF#8] 0 (1 + 2) ∧ byteAt [0xFD#8, 0x7F#8, 0xFF#8] (0 : Int).toNat = 253) ∧
    (Admitted [0xFD#8, 0x80#8, 0x00#8] 0 (1 + 2) ∧ byteAt [0xFD#8, 0x80#8, 0x00#8] (0 : Int).toNat = 253) ∧
    (Admitted (0xFF#8 :: zerosThenOne 7) 0 (1 + 8) ∧ byteAt (0xFF#8 :: zerosThenOne 7) (0 : Int).toNat = 255) := by decide

/-- A decode of each size. -/
theorem witness_DecodedSizeIsTheBytesConsumed :
    exec (.decodeVarInt [5#8] 0) State.reset = .next (State.reset.answering (.ok (.varInt 5#64 1))) ∧
    exec (.decodeVarIntReversed [0xFD#8, 1#8, 0#8] 0) State.reset = .next (State.reset.answering (.ok (.varInt 1#64 3))) ∧
    exec (.decodeVarInt (0xFE#8 :: zerosThenOne 3) 0) State.reset = .next (State.reset.answering (.ok (.varInt 1#64 5))) ∧
    exec (.decodeVarInt (0xFF#8 :: zerosThenOne 7) 0) State.reset = .next (State.reset.answering (.ok (.varInt 1#64 9))) :=
  ⟨rfl, rfl, rfl, rfl⟩

theorem witness_PayloadCutShortReturnsNothing :
    (Admitted [0xFD#8, 1#8] 0 1 ∧ byteAt [0xFD#8, 1#8] (0 : Int).toNat = 253 ∧ (0 : Int) + 1 + (2 : Nat) > [0xFD#8, 1#8].length) ∧
    (Admitted [0xFF#8] 0 1 ∧ byteAt [0xFF#8] (0 : Int).toNat = 255 ∧ (0 : Int) + 1 + (8 : Nat) > [0xFF#8].length) := by decide

theorem witness_EveryFormPresentDecodes :
    (Admitted [0#8] 0 1 ∧ Admitted [0#8] 0 (1 + payloadWidth (byteAt [0#8] (0 : Int).toNat))) ∧
    (Admitted [0xFD#8, 5#8, 0#8] 0 1 ∧
      Admitted [0xFD#8, 5#8, 0#8] 0 (1 + payloadWidth (byteAt [0xFD#8, 5#8, 0#8] (0 : Int).toNat))) := by decide

theorem witness_VariantsAreByteReversalsOfEachOther :
    State.reset.params.payloadExt = .zero ∧ (Admitted [0xFC#8] 0 1 ∧ byteAt [0xFC#8] (0 : Int).toNat ≤ 252) ∧
    (253 ≤ byteAt [0xFD#8, 1#8, 0#8] (0 : Int).toNat ∧
      Admitted [0xFD#8, 1#8, 0#8] 0 (1 + payloadWidth (byteAt [0xFD#8, 1#8, 0#8] (0 : Int).toNat))) := by decide

theorem witness_DecodesSeeTheirVarIntAlone :
    (Admitted [9#8, 0xFD#8, 1#8, 0#8, 7#8] 1 3 ∧
      ∀ i < 3, byteAt [0xFD#8, 1#8, 0#8] ((0 : Int).toNat + i) = byteAt [9#8, 0xFD#8, 1#8, 0#8, 7#8] ((1 : Int).toNat + i)) ∧
    exec (.decodeVarInt [0xFD#8, 1#8, 0#8] 0) State.reset = .next (State.reset.answering (.ok (.varInt 256#64 3))) ∧
    exec (.decodeVarIntReversed [0xFD#8, 1#8, 0#8] 0) State.reset = .next (State.reset.answering (.ok (.varInt 1#64 3))) :=
  ⟨by decide, rfl, rfl⟩

/-- The largest value of each size's range. -/
theorem witness_EncoderWritesLittleEndian :
    (65535#64).toNat < 2 ^ (8 * 2) ∧ (4294967295#64).toNat < 2 ^ (8 * 4) ∧ (18446744073709551615#64).toNat < 2 ^ (8 * 8) := by
  decide

/-- A value whose single byte is 253, and enough bytes after it. -/
theorem witness_SizeOneWritesOneByte :
    ask (.encodeVarInt 253#64 1) = some (.ok (.bytes [0xFD#8])) ∧ 253 ≤ (0xFD#8).toNat ∧
    payloadWidth (0xFD#8).toNat ≤ [1#8, 0#8].length := by decide

/-- Sizes on both sides of the equivalence. -/
theorem witness_InvalidSizeExactly :
    ask (.encodeVarInt 1#64 0) = some (.error .invalidSize) ∧ ask (.encodeVarInt 1#64 10) = some (.error .invalidSize) ∧
    ask (.encodeVarInt 1#64 (-1)) = some (.error .invalidSize) ∧ ask (.encodeVarInt 1#64 1) = some (.ok (.bytes [1#8])) := by decide

theorem witness_OutputLengthIsTheSize :
    exec (.encodeVarInt 5#64 3) State.reset = .next (State.reset.answering (.ok (.bytes [0xFD#8, 5#8, 0#8]))) ∧
    (State.reset.answering (.ok (.bytes [0xFD#8, 5#8, 0#8]))).response = some (.ok (.bytes [0xFD#8, 5#8, 0#8])) ∧
    (Response.ok (.bytes [0xFD#8, 5#8, 0#8])).status = 0b00#2 := ⟨rfl, rfl, rfl⟩

/-- The top of each range, and both ways of meeting the premise on PAYLOAD_EXT. -/
theorem witness_RoundTripInAnyStream :
    (InRange 1 (252#64).toNat ∧ InRange 3 (65535#64).toNat ∧ InRange 5 (4294967295#64).toNat ∧
      InRange 9 (18446744073709551615#64).toNat) ∧
    State.reset.params.payloadExt = .zero ∧ signState.params.payloadExt = .sign := by
  refine ⟨⟨?_, ?_, ?_, ?_⟩, rfl, rfl⟩ <;> simp [InRange]

theorem witness_OtherDecoderReversesTheBytes :
    InRange 1 (5#64).toNat ∧ InRange 3 (300#64).toNat ∧ State.reset.params.payloadExt = .zero := by
  refine ⟨?_, ?_, rfl⟩ <;> simp [InRange]

theorem witness_ReservedRequestsIgnoreTheirOperands :
    ({ State.reset with waiting := [⟨0, Request.bare 0x9#4⟩, ⟨1, Request.bare 0xF#4⟩] } : State).waiting =
      ⟨0, Request.bare 0x9#4⟩ :: [⟨1, Request.bare 0xF#4⟩] ∧
    9 ≤ (Request.bare 0x9#4).op.toNat ∧ 9 ≤ (Request.bare 0xF#4).op.toNat := by decide

theorem witness_ErrorsCarryNoResultAndChangeNothing :
    exec (.encodeVarInt 1#64 2) State.reset = .next (State.reset.answering (.error .invalidSize)) ∧
    (State.reset.answering (.error .invalidSize)).response = some (.error .invalidSize) := ⟨rfl, rfl⟩

theorem witness_EachOperationRaisesItsOwnError :
    exec (.readShort [] 0) State.reset = .next (State.reset.answering (.error .outOfBounds)) ∧
    (State.reset.answering (.error .outOfBounds)).response = some (.error .outOfBounds) := ⟨rfl, rfl⟩

/-- One instruction of each clause, answering with STATUS OK. -/
theorem witness_BusFieldsFollowTheOperation :
    (exec (.readShort B 0) State.reset = .next (State.reset.answering (.ok (.word16 0x0123#16))) ∧ (Response.ok (.word16 0x0123#16)).status = 0b00#2) ∧
    (exec (.readInt B 0) State.reset = .next (State.reset.answering (.ok (.word32 0x01234567#32))) ∧ (Response.ok (.word32 0x01234567#32)).status = 0b00#2) ∧
    (exec (.readLong B 0) State.reset = .next (State.reset.answering (.ok (.word64 0x0123456789ABCDEF#64))) ∧ (Response.ok (.word64 0x0123456789ABCDEF#64)).status = 0b00#2) ∧
    (exec (.decodeVarInt (0xFF#8 :: zerosThenOne 7) 0) State.reset = .next (State.reset.answering (.ok (.varInt 1#64 9))) ∧ (Response.ok (.varInt 1#64 9)).status = 0b00#2) ∧
    (exec (.encodeVarInt 300#64 3) State.reset = .next (State.reset.answering (.ok (.bytes [0xFD#8, 0x2C#8, 0x01#8]))) ∧ (Response.ok (.bytes [0xFD#8, 0x2C#8, 0x01#8])).status = 0b00#2) :=
  ⟨⟨rfl, rfl⟩, ⟨rfl, rfl⟩, ⟨rfl, rfl⟩, ⟨rfl, rfl⟩, ⟨rfl, rfl⟩⟩

theorem witness_WireRoundTrip :
    WellFormed Params.default (.readShort B (-2147483648)) = true ∧ WellFormed Params.default (.readShort B 2147483647) = true ∧
    WellFormed Params.default (.encodeVarInt 300#64 3) = true ∧ WellFormed shortUnit (.reserved11 3#2) = true := by decide

/-- The three clauses are exclusive, at their boundary selects. -/
theorem witness_IgnoredOperandsHaveNoEffect :
    (Request.bare 0x7#4).op.toNat ≤ 7 ∧ (Request.bare 0x8#4).op.toNat = 8 ∧ 9 ≤ (Request.bare 0x9#4).op.toNat := by decide

theorem witness_BusOffsetsWithTheTopBitSetAreNegative :
    ((Request.bare 0x7#4).toWire Params.default).off.msb = false ∧
    (({ Request.bare 0x7#4 with off := -1 } : Request).toWire Params.default).off.msb = true ∧
    (({ Request.bare 0x7#4 with off := -1 } : Request).toWire Params.default).op.toNat ≤ 7 := by decide

theorem witness_LengthLimitBoundsTheSequenceAlone :
    State.reset.params.maxLen = none ∧ shortUnit.maxLen = some 2 ∧ (Request.bare 0x7#4).op.toNat ≤ 7 ∧
    8 ≤ (Request.bare 0x8#4).op.toNat := by decide

theorem witness_ExecFrame :
    exec (.decodeVarInt [5#8] 0) State.reset = .next (State.reset.answering (.ok (.varInt 5#64 1))) := rfl

/-- Both ways of meeting the hypothesis. -/
theorem witness_ResponseDependsOnTheRequestAlone :
    State.reset.params.payloadExt = State.reset.assertReset.params.payloadExt ∧
    (∀ seq off, Instr.encodeVarInt 300#64 3 ≠ .decodeVarInt seq off) ∧
    (∀ seq off, Instr.encodeVarInt 300#64 3 ≠ .decodeVarIntReversed seq off) :=
  ⟨rfl, fun _ _ h => (nomatch h), fun _ _ h => (nomatch h)⟩

theorem witness_StepRunsTheDecodedRequest :
    State.reset.waiting = [] ∧
    ({ State.reset with waiting := [⟨3, Request.bare 0x0#4⟩] } : State).waiting = ⟨3, Request.bare 0x0#4⟩ :: [] := by decide

/-- A state with a request in flight and a response handed out that meets the invariant, and a step from it. -/
theorem witness_StepKeepsTheInvariant :
    Inv { State.reset with
      waiting := [⟨3, Request.bare 0x9#4⟩], delivered := [⟨1, Request.bare 0x6#4, .ok (.varInt 5#64 1)⟩] } ∧
    step { State.reset with waiting := [⟨3, Request.bare 0x9#4⟩] } =
      .next { State.reset with delivered := [⟨3, Request.bare 0x9#4, .error .illegalOp⟩] } := by
  refine ⟨⟨?_, rfl, ?_⟩, rfl⟩ <;> decide

theorem witness_EveryMoveKeepsTheInvariant :
    Inv State.reset ∧ react (.issue 3 (Request.bare 0x0#4)) State.reset =
      .next { State.reset with waiting := [⟨3, Request.bare 0x0#4⟩] } := by
  refine ⟨⟨?_, rfl, ?_⟩, rfl⟩ <;> decide

/-- A state that holds an answer meets the hypothesis. -/
theorem witness_EveryInterleavingAnswersAsAlone :
    AnsweredAsAlone { State.reset with delivered := [⟨1, Request.bare 0x8#4, .error .invalidSize⟩] } :=
  ⟨rfl, by decide⟩

theorem witness_EveryRequestIsAnswered :
    ({ State.reset with waiting := [⟨3, Request.bare 0x0#4⟩] } : State).response = none := by decide

theorem witness_ChoosingTheNextRequestChangesNoResponse :
    ({ State.reset with waiting := [⟨3, Request.bare 0x0#4⟩, ⟨4, Request.bare 0x8#4⟩] } : State).response = none ∧
    ({ State.reset with waiting := [⟨3, Request.bare 0x0#4⟩, ⟨4, Request.bare 0x8#4⟩] } : State).waiting[1]? =
      some ⟨4, Request.bare 0x8#4⟩ := by decide

end Sys2Proof.Tests
end

section
/-! SUPPORT. What an instruction answers, as a function of PAYLOAD_EXT and the request alone (R30, R75): every fact about `exec`,
`step` and `responseAlone` below goes through it. -/

namespace Sys2Proof.Machine

/-- The result of each operation or the error it raises, with no state but PAYLOAD_EXT. -/
def outcome (ext : PayloadExt) : Instr → Except ErrorKind Result
  | .readShort seq off => (readBE seq off 2).map Result.word16
  | .readShortReversed seq off => (readLE seq off 2).map Result.word16
  | .readInt seq off => (readBE seq off 4).map Result.word32
  | .readIntReversed seq off => (readLE seq off 4).map Result.word32
  | .readLong seq off => (readBE seq off 8).map Result.word64
  | .readLongReversed seq off => (readLE seq off 8).map Result.word64
  | .decodeVarInt seq off => decodeVarIntCommon ext false seq off
  | .decodeVarIntReversed seq off => decodeVarIntCommon ext true seq off
  | .encodeVarInt val size => (encodeVarIntBytes val size).map Result.bytes
  | .reservedReversedEncoder => .error .illegalOp
  | .reserved101 _ => .error .illegalOp
  | .reserved11 _ => .error .illegalOp

/-- An operation's result or error as the response that carries it. -/
def Response.ofExcept : Except ErrorKind Result → Response
  | .ok r => .ok r
  | .error e => .error e

@[simp] theorem Response.ofExcept_ok (r : Result) : Response.ofExcept (.ok r) = .ok r := rfl
@[simp] theorem Response.ofExcept_error (e : ErrorKind) : Response.ofExcept (.error e) = .error e := rfl

theorem respond_eq_answering (r : Except ErrorKind Result) (s : State) :
    respond r s = .next (s.answering (Response.ofExcept r)) := by
  cases r <;> rfl

/-- The response to an instruction. -/
def answer (ext : PayloadExt) (i : Instr) : Response := Response.ofExcept (outcome ext i)

theorem exec_eq_respond (i : Instr) (s : State) : exec i s = respond (outcome s.params.payloadExt i) s := by
  cases i <;> rfl

/-- The inversion lemma of `exec`: it always answers, and writes nothing but the answer. -/
theorem exec_eq_answering (i : Instr) (s : State) :
    exec i s = .next (s.answering (answer s.params.payloadExt i)) := by
  rw [exec_eq_respond, respond_eq_answering, answer]

theorem exec_of_outcome_ok {i : Instr} {s : State} {r : Result} (h : outcome s.params.payloadExt i = .ok r) :
    exec i s = .next (s.answering (.ok r)) := by
  rw [exec_eq_answering, answer, h, Response.ofExcept_ok]

/-- Only the two decodes read PAYLOAD_EXT (R13, R152). -/
theorem answer_eq_of_not_decode {i : Instr} (hbe : ∀ seq off, i ≠ .decodeVarInt seq off)
    (hle : ∀ seq off, i ≠ .decodeVarIntReversed seq off) (ext ext' : PayloadExt) : answer ext i = answer ext' i := by
  cases i with
  | decodeVarInt seq off => exact absurd rfl (hbe seq off)
  | decodeVarIntReversed seq off => exact absurd rfl (hle seq off)
  | _ => rfl

variable {s t : State} {q : Issued} {rest : List Issued}

/-- The state after the request `q` at the head of those in flight is answered. -/
def State.served (s : State) (q : Issued) (rest : List Issued) : State :=
  { s with
    waiting := rest
    response := none
    delivered := s.delivered ++ [⟨q.host, q.request, answer s.params.payloadExt (decode q.request)⟩] }

@[simp] theorem State.served_params : (s.served q rest).params = s.params := rfl
@[simp] theorem State.served_waiting : (s.served q rest).waiting = rest := rfl
@[simp] theorem State.served_response : (s.served q rest).response = none := rfl
@[simp] theorem State.served_delivered : (s.served q rest).delivered =
    s.delivered ++ [⟨q.host, q.request, answer s.params.payloadExt (decode q.request)⟩] := rfl

theorem step_eq_served (h : s.waiting = q :: rest) : step s = .next (s.served q rest) := by
  rw [step_of_waiting_cons h, exec_eq_answering, deliver_next]
  rfl

/-- A request that runs alone gets the answer of the instruction it decodes to. -/
theorem responseAlone_eq (p : Params) (q : Request) :
    responseAlone p q = some (answer p.payloadExt (decode q)) := by
  unfold responseAlone
  rw [step_eq_served rfl]
  rfl

theorem runEvents_nil (s : State) : runEvents [] s = .next s := rfl

theorem runEvents_cons_of_next {e : Event} (es : List Event) (h : react e s = .next t) :
    runEvents (e :: es) s = runEvents es t := by
  simp only [runEvents, h]

/-- The chosen request stands at the head, the others behind it in their order. -/
theorem choose_waiting_eq {k : Nat} (h : s.waiting[k]? = some q) :
    (s.choose k).waiting = q :: s.waiting.eraseIdx k := by
  simp only [State.choose, h]

end Sys2Proof.Machine
end

section
/-! What every instruction leaves unchanged, and what its response depends on. -/

namespace Sys2Proof.Machine

/-- Settles O36: an instruction answers and does nothing else. -/
theorem execFrame : Obligations.ExecFrame := by
  unfold Obligations.ExecFrame
  intro i s t h
  rw [exec_eq_answering] at h
  cases h
  exact ⟨rfl, rfl, rfl, fun _ _ => rfl⟩

/-- Settles O37: the response is `answer`, which sees no state but PAYLOAD_EXT, and that only for a decode. -/
theorem responseDependsOnTheRequestAlone : Obligations.ResponseDependsOnTheRequestAlone := by
  unfold Obligations.ResponseDependsOnTheRequestAlone
  intro i s t h
  have same : answer s.params.payloadExt i = answer t.params.payloadExt i := by
    obtain hext | ⟨hbe, hle⟩ := h
    · rw [hext]
    · exact answer_eq_of_not_decode hbe hle _ _
  exact ⟨answer t.params.payloadExt i, same ▸ exec_eq_answering i s, exec_eq_answering i t⟩

end Sys2Proof.Machine
end

section
/-! Interleavings: no response depends on which requests are in flight, nor on the order they are answered in. -/

namespace Sys2Proof.Machine

variable {s t : State}

/-- The predicate sees the responses handed out, the parameters and that none is left over, not the requests in flight. -/
theorem AnsweredAsAlone.of_same_answers (h : AnsweredAsAlone s) (hr : t.response = none) (hp : t.params = s.params)
    (hd : t.delivered = s.delivered) : AnsweredAsAlone t :=
  ⟨hr, by rw [hp, hd]; exact h.2⟩

theorem AnsweredAsAlone.served (h : AnsweredAsAlone s) (q : Issued) (rest : List Issued) :
    AnsweredAsAlone (s.served q rest) := by
  refine ⟨rfl, fun d hd => ?_⟩
  rw [State.served_delivered, List.mem_append, List.mem_singleton] at hd
  obtain hold | rfl := hd
  · exact h.2 d hold
  · exact responseAlone_eq _ _

theorem step_keeps_answeredAsAlone (h : AnsweredAsAlone s) :
    ∃ t, step s = .next t ∧ AnsweredAsAlone t ∧ t.params = s.params := by
  cases hw : s.waiting with
  | nil => exact ⟨s, step_of_waiting_nil hw, h, rfl⟩
  | cons q rest => exact ⟨s.served q rest, step_eq_served hw, h.served q rest, rfl⟩

theorem react_keeps_answeredAsAlone (e : Event) (h : AnsweredAsAlone s) :
    ∃ t, react e s = .next t ∧ AnsweredAsAlone t ∧ t.params = s.params := by
  cases e with
  | issue host q =>
    simp only [react, issue_eq]
    split_ifs
    · exact ⟨_, rfl, h.of_same_answers h.1 rfl rfl, rfl⟩
    · exact ⟨s, rfl, h, rfl⟩
  | choose k =>
    exact ⟨s.choose k, rfl, h.of_same_answers (by rw [State.choose_response, h.1]) (by simp) (by simp), by simp⟩
  | serve => exact step_keeps_answeredAsAlone h
  | reset => exact ⟨s.assertReset, rfl, h.of_same_answers rfl rfl rfl, rfl⟩

/-- Settles O45, by induction on the moves: each keeps `AnsweredAsAlone` and the parameters. -/
theorem everyInterleavingAnswersAsAlone : Obligations.EveryInterleavingAnswersAsAlone := by
  unfold Obligations.EveryInterleavingAnswersAsAlone
  intro es
  induction es with
  | nil => exact fun s h => ⟨s, runEvents_nil s, h, rfl⟩
  | cons e es ih =>
    intro s h
    obtain ⟨u, hu, hAlone, hParams⟩ := react_keeps_answeredAsAlone e h
    obtain ⟨t, ht, hAlone', hParams'⟩ := ih u hAlone
    exact ⟨t, (runEvents_cons_of_next es hu).trans ht, hAlone', hParams'.trans hParams⟩

/-- Settles O47: choosing puts the request at the head, and serving it gives the answer it gets alone. -/
theorem choosingTheNextRequestChangesNoResponse : Obligations.ChoosingTheNextRequestChangesNoResponse := by
  unfold Obligations.ChoosingTheNextRequestChangesNoResponse
  intro s j q _ hq
  have hw : (s.choose j).waiting = q :: s.waiting.eraseIdx j := choose_waiting_eq hq
  refine ⟨(s.choose j).served q (s.waiting.eraseIdx j), answer s.params.payloadExt (decode q.request), ?_, by simp,
    by simp, responseAlone_eq _ _, ?_⟩
  · calc runEvents [.choose j, .serve] s
        = runEvents [.serve] (s.choose j) := runEvents_cons_of_next _ rfl
      _ = runEvents [] ((s.choose j).served q (s.waiting.eraseIdx j)) := runEvents_cons_of_next _ (step_eq_served hw)
  · rw [State.served_waiting, ← hw]
    exact s.choose_waiting_perm j

end Sys2Proof.Machine
end

section
/-! SUPPORT. The bytes of a window as the digits of a number in base 256, and the two compositions (R120, R121) as that number:
little-endian as it stands, big-endian with the window reversed (R64, R65, R71). -/

namespace Sys2Proof.Machine

/-- Two words side by side: the upper one shifted over a lower one that fits below it. -/
theorem toNat_shiftLeft_or {w k : Nat} {x y : BitVec w} (hx : 2 ^ k * x.toNat < 2 ^ w) (hy : y.toNat < 2 ^ k) :
    (x <<< k ||| y).toNat = 2 ^ k * x.toNat + y.toNat := by
  rw [BitVec.toNat_or, BitVec.toNat_shiftLeft, Nat.shiftLeft_eq, Nat.mul_comm, Nat.mod_eq_of_lt hx,
    ← Nat.two_pow_add_eq_or_of_lt hy]

/-- A byte sequence as a number, the first byte least significant. -/
def bytesValue (bs : List Byte) : Nat := Nat.ofDigits 256 (bs.map BitVec.toNat)

@[simp] theorem bytesValue_nil : bytesValue [] = 0 := rfl

theorem bytesValue_cons (b : Byte) (bs : List Byte) : bytesValue (b :: bs) = b.toNat + 256 * bytesValue bs := by
  simp [bytesValue, Nat.ofDigits_cons]

theorem bytesValue_append (xs ys : List Byte) :
    bytesValue (xs ++ ys) = bytesValue xs + 2 ^ (8 * xs.length) * bytesValue ys := by
  simp [bytesValue, Nat.ofDigits_append, Nat.pow_mul]

theorem bytesValue_lt (bs : List Byte) : bytesValue bs < 2 ^ (8 * bs.length) := by
  induction bs with
  | nil => simp
  | cons b bs ih =>
    rw [bytesValue_cons, List.length_cons, Nat.mul_succ, Nat.pow_add]
    omega

theorem composeBE_append_singleton (w : Nat) (bs : List Byte) (b : Byte) :
    composeBE w (bs ++ [b]) = (composeBE w bs <<< 8 ||| b.setWidth w) := by
  simp [composeBE]

theorem composeBE_reverse_toNat {w : Nat} (bs : List Byte) (h : 8 * bs.length ≤ w) :
    (composeBE w bs.reverse).toNat = bytesValue bs := by
  induction bs with
  | nil => simp [composeBE]
  | cons b bs ih =>
    rw [List.length_cons] at h
    have hbs : (composeBE w bs.reverse).toNat = bytesValue bs := ih (by omega)
    have hb : (b.setWidth w).toNat = b.toNat := BitVec.toNat_setWidth_of_le (by omega)
    have hfit : bytesValue (b :: bs) < 2 ^ w :=
      (bytesValue_lt _).trans_le (Nat.pow_le_pow_right Nat.two_pos h)
    rw [bytesValue_cons] at hfit ⊢
    rw [List.reverse_cons, composeBE_append_singleton, toNat_shiftLeft_or, hbs, hb]
    · omega
    · rw [hbs]; omega
    · rw [hb]; exact b.isLt

theorem composeBE_toNat {w : Nat} (bs : List Byte) (h : 8 * bs.length ≤ w) :
    (composeBE w bs).toNat = bytesValue bs.reverse := by
  simpa using composeBE_reverse_toNat bs.reverse (by simpa using h)

/-- The loop of `ReadLE` from its `i`-th turn puts the bytes left above what the first `i` bytes gave. -/
theorem composeLEFrom_toNat {w : Nat} (bs : List Byte) (i : Nat) (v : BitVec w) (h : 8 * (i + bs.length) ≤ w)
    (hv : v.toNat < 2 ^ (8 * i)) :
    (composeLEFrom w i v bs).toNat = v.toNat + 2 ^ (8 * i) * bytesValue bs := by
  induction bs generalizing i v with
  | nil => simp [composeLEFrom]
  | cons b bs ih =>
    rw [List.length_cons] at h
    have hb : (b.setWidth w).toNat = b.toNat := BitVec.toNat_setWidth_of_le (by omega)
    have hbi : 2 ^ (8 * i) * b.toNat + 2 ^ (8 * i) ≤ 2 ^ (8 * (i + 1)) := by
      rw [Nat.mul_succ, Nat.pow_add]
      nlinarith [b.isLt]
    have hw : 2 ^ (8 * (i + 1)) ≤ 2 ^ w := Nat.pow_le_pow_right Nat.two_pos (by omega)
    have hnext : (v ||| b.setWidth w <<< (8 * i)).toNat = 2 ^ (8 * i) * b.toNat + v.toNat := by
      rw [BitVec.or_comm, toNat_shiftLeft_or _ hv, hb]
      rw [hb]
      omega
    rw [composeLEFrom, ih (i + 1) _ (by omega) (by omega), hnext, bytesValue_cons, Nat.mul_succ, Nat.pow_add]
    ring

theorem composeLE_toNat {w : Nat} (bs : List Byte) (h : 8 * bs.length ≤ w) : (composeLE w bs).toNat = bytesValue bs := by
  rw [composeLE, composeLEFrom_toNat bs 0 0#w (by simpa using h) (by simp)]
  simp

theorem composeLE_eq_composeBE_reverse {w : Nat} (bs : List Byte) (h : 8 * bs.length ≤ w) :
    composeLE w bs = composeBE w bs.reverse :=
  BitVec.eq_of_toNat_eq ((composeLE_toNat bs h).trans (composeBE_reverse_toNat bs h).symm)

/-! Windows of a sequence, and the sums of R64 and R65 over them. -/

variable {seq : ByteSeq} {off : Int} {a m n : Nat}

theorem window_add (seq : ByteSeq) (a m n : Nat) : window seq a (m + n) = window seq a m ++ window seq (a + m) n := by
  simp [window, List.take_add]

theorem window_self (bs : List Byte) : window bs 0 bs.length = bs := by
  simp [window]

theorem window_length_of_le (h : a + n ≤ seq.length) : (window seq a n).length = n := by
  simp only [window, List.length_take, List.length_drop]
  omega

/-- A window of one byte is that byte. -/
theorem window_one (h : a < seq.length) : ∃ b : Byte, window seq a 1 = [b] ∧ b.toNat = byteAt seq a := by
  refine ⟨seq[a], ?_, by simp [byteAt, h]⟩
  rw [window, List.drop_eq_getElem_cons h, List.take_succ_cons, List.take_zero]

theorem leValue_succ (seq : ByteSeq) (a n : Nat) :
    leValue seq a (n + 1) = leValue seq a n + byteAt seq (a + n) * 2 ^ (8 * n) :=
  Finset.sum_range_succ _ _

theorem bytesValue_window (h : a + n ≤ seq.length) : bytesValue (window seq a n) = leValue seq a n := by
  induction n with
  | zero => simp [window, leValue]
  | succ n ih =>
    obtain ⟨b, hb, hval⟩ := window_one (seq := seq) (a := a + n) (by omega)
    rw [window_add, bytesValue_append, ih (by omega), window_length_of_le (by omega), hb, bytesValue_cons, bytesValue_nil,
      leValue_succ, hval]
    ring

theorem beValue_succ (seq : ByteSeq) (a n : Nat) : beValue seq a (n + 1) = 256 * beValue seq a n + byteAt seq (a + n) := by
  rw [beValue, Finset.sum_range_succ, beValue, Finset.mul_sum]
  congr 1
  · refine Finset.sum_congr rfl fun i hi => ?_
    have hexp : 8 * (n + 1 - 1 - i) = 8 * (n - 1 - i) + 8 := by have := Finset.mem_range.mp hi; omega
    rw [hexp, Nat.pow_add]
    ring
  · simp

theorem bytesValue_reverse_window (h : a + n ≤ seq.length) : bytesValue (window seq a n).reverse = beValue seq a n := by
  induction n with
  | zero => simp [window, beValue]
  | succ n ih =>
    obtain ⟨b, hb, hval⟩ := window_one (seq := seq) (a := a + n) (by omega)
    rw [window_add, hb, List.reverse_append, List.reverse_singleton, List.singleton_append, bytesValue_cons,
      ih (by omega), beValue_succ, hval]
    omega

theorem Admitted.toNat_add_le (h : Admitted seq off n) : off.toNat + n ≤ seq.length := by
  obtain ⟨hnonneg, hin⟩ := h
  omega

/-- A read of fewer bytes at the same offset is admitted too. -/
theorem Admitted.mono (h : Admitted seq off n) (hmn : m ≤ n) : Admitted seq off m := by
  obtain ⟨hnonneg, hin⟩ := h
  exact ⟨hnonneg, by omega⟩

/-- What is left of an admitted read after its first bytes is admitted. -/
theorem Admitted.rest (h : Admitted seq off (m + n)) : Admitted seq (off + m) n := by
  obtain ⟨hnonneg, hin⟩ := h
  exact ⟨by omega, by omega⟩

theorem Admitted.toNat_add (h : Admitted seq off n) (m : Nat) : (off + m).toNat = off.toNat + m := by
  obtain ⟨hnonneg, _⟩ := h
  omega

/-- A big-endian read composes the sum of R64. -/
theorem composeBE_window_toNat (h : Admitted seq off n) :
    (composeBE (8 * n) (window seq off.toNat n)).toNat = beValue seq off.toNat n := by
  rw [composeBE_toNat _ (by rw [window_length h]), bytesValue_reverse_window h.toNat_add_le]

/-- A little-endian read composes the sum of R65. -/
theorem composeLE_window_toNat (h : Admitted seq off n) :
    (composeLE (8 * n) (window seq off.toNat n)).toNat = leValue seq off.toNat n := by
  rw [composeLE_toNat _ (by rw [window_length h]), bytesValue_window h.toNat_add_le]

end Sys2Proof.Machine
end

section
/-! The fixed-width reader: its six reads are `readBE` or `readLE` at three widths, so each fact is proved once over the width. -/

namespace Sys2Proof.Machine

variable {seq : ByteSeq} {off : Int} {n : Nat}

variable {s : State}

theorem exec_readShort_of_ok {w : BitVec 16} (h : readBE seq off 2 = .ok w) :
    exec (.readShort seq off) s = .next (s.answering (.ok (.word16 w))) :=
  exec_of_outcome_ok (congrArg (·.map Result.word16) h)

theorem exec_readShortReversed_of_ok {w : BitVec 16} (h : readLE seq off 2 = .ok w) :
    exec (.readShortReversed seq off) s = .next (s.answering (.ok (.word16 w))) :=
  exec_of_outcome_ok (congrArg (·.map Result.word16) h)

theorem exec_readInt_of_ok {w : BitVec 32} (h : readBE seq off 4 = .ok w) :
    exec (.readInt seq off) s = .next (s.answering (.ok (.word32 w))) :=
  exec_of_outcome_ok (congrArg (·.map Result.word32) h)

theorem exec_readIntReversed_of_ok {w : BitVec 32} (h : readLE seq off 4 = .ok w) :
    exec (.readIntReversed seq off) s = .next (s.answering (.ok (.word32 w))) :=
  exec_of_outcome_ok (congrArg (·.map Result.word32) h)

theorem exec_readLong_of_ok {w : BitVec 64} (h : readBE seq off 8 = .ok w) :
    exec (.readLong seq off) s = .next (s.answering (.ok (.word64 w))) :=
  exec_of_outcome_ok (congrArg (·.map Result.word64) h)

theorem exec_readLongReversed_of_ok {w : BitVec 64} (h : readLE seq off 8 = .ok w) :
    exec (.readLongReversed seq off) s = .next (s.answering (.ok (.word64 w))) :=
  exec_of_outcome_ok (congrArg (·.map Result.word64) h)

/-- R71 at every width: the bytes of a little-endian read, reversed, are read big-endian. -/
theorem readLE_eq_readBE_reverse (h : Admitted seq off n) :
    readLE seq off n = readBE (window seq off.toNat n).reverse 0 n := by
  have hlen : (window seq off.toNat n).length = n := window_length h
  have hadm : Admitted (window seq off.toNat n).reverse 0 n := ⟨le_refl 0, by simp [hlen]⟩
  have hwin : window (window seq off.toNat n).reverse (0 : Int).toNat n = (window seq off.toNat n).reverse := by
    have := window_self (window seq off.toNat n).reverse
    rwa [List.length_reverse, hlen] at this
  rw [readLE_of_admitted h, readBE_of_admitted hadm, hwin, composeLE_eq_composeBE_reverse _ (by rw [hlen])]

/-- Two words of `k` bits side by side in a word of `w` bits. -/
theorem toNat_shiftLeft_or_setWidth {k w : Nat} (hi lo : BitVec k) (h : k + k ≤ w) :
    (hi.setWidth w <<< k ||| lo.setWidth w).toNat = 2 ^ k * hi.toNat + lo.toNat := by
  have hhi : (hi.setWidth w).toNat = hi.toNat := BitVec.toNat_setWidth_of_le (by omega)
  have hlo : (lo.setWidth w).toNat = lo.toNat := BitVec.toNat_setWidth_of_le (by omega)
  have hfit : 2 ^ k * hi.toNat < 2 ^ w :=
    calc 2 ^ k * hi.toNat < 2 ^ k * 2 ^ k := Nat.mul_lt_mul_of_pos_left hi.isLt (Nat.two_pow_pos k)
      _ = 2 ^ (k + k) := (Nat.pow_add 2 k k).symm
      _ ≤ 2 ^ w := Nat.pow_le_pow_right Nat.two_pos h
  rw [toNat_shiftLeft_or (by rwa [hhi]) (by rw [hlo]; exact lo.isLt), hhi, hlo]

/-- R70, big-endian, over two windows of one length: the first is the upper half. -/
theorem composeBE_append {xs ys : List Byte} {w : Nat} (hx : xs.length = n) (hy : ys.length = n)
    (hw : 8 * n + 8 * n ≤ w) :
    composeBE w (xs ++ ys) =
      ((composeBE (8 * n) xs).setWidth w <<< (8 * n) ||| (composeBE (8 * n) ys).setWidth w) := by
  apply BitVec.eq_of_toNat_eq
  rw [toNat_shiftLeft_or_setWidth _ _ hw, composeBE_toNat _ (by simp only [List.length_append]; omega),
    composeBE_toNat _ (by omega), composeBE_toNat _ (by omega), List.reverse_append, bytesValue_append,
    List.length_reverse, hy, Nat.add_comm]

/-- R70, little-endian: the second is the upper half. -/
theorem composeLE_append {xs ys : List Byte} {w : Nat} (hx : xs.length = n) (hy : ys.length = n)
    (hw : 8 * n + 8 * n ≤ w) :
    composeLE w (xs ++ ys) =
      ((composeLE (8 * n) ys).setWidth w <<< (8 * n) ||| (composeLE (8 * n) xs).setWidth w) := by
  apply BitVec.eq_of_toNat_eq
  rw [toNat_shiftLeft_or_setWidth _ _ hw, composeLE_toNat _ (by simp only [List.length_append]; omega),
    composeLE_toNat _ (by omega), composeLE_toNat _ (by omega), bytesValue_append, hx, Nat.add_comm]

/-- The window of an admitted wide read is the windows of its two half reads. -/
theorem window_halves (h : Admitted seq off (n + n)) :
    window seq off.toNat (n + n) = window seq off.toNat n ++ window seq (off + n).toNat n := by
  rw [window_add, h.toNat_add]

theorem readBE_halves (h : Admitted seq off (n + n)) : ∃ a b : BitVec (8 * n),
    readBE seq off n = .ok a ∧ readBE seq (off + n) n = .ok b ∧
    readBE seq off (n + n) = .ok (a.setWidth _ <<< (8 * n) ||| b.setWidth _) := by
  have hfirst : Admitted seq off n := h.mono (by omega)
  refine ⟨_, _, readBE_of_admitted hfirst, readBE_of_admitted h.rest, ?_⟩
  rw [readBE_of_admitted h, window_halves h,
    composeBE_append (window_length hfirst) (window_length h.rest) (by omega)]

theorem readLE_halves (h : Admitted seq off (n + n)) : ∃ a b : BitVec (8 * n),
    readLE seq off n = .ok a ∧ readLE seq (off + n) n = .ok b ∧
    readLE seq off (n + n) = .ok (b.setWidth _ <<< (8 * n) ||| a.setWidth _) := by
  have hfirst : Admitted seq off n := h.mono (by omega)
  refine ⟨_, _, readLE_of_admitted hfirst, readLE_of_admitted h.rest, ?_⟩
  rw [readLE_of_admitted h, window_halves h,
    composeLE_append (window_length hfirst) (window_length h.rest) (by omega)]

/-- Settles O1: at each width the composed word is the sum of R64. -/
theorem bigEndianReadsGiveTheSum : Obligations.BigEndianReadsGiveTheSum := by
  unfold Obligations.BigEndianReadsGiveTheSum
  intro seq off s
  refine ⟨fun h => ?_, fun h => ?_, fun h => ?_⟩
  · exact ⟨_, composeBE_window_toNat h, exec_readShort_of_ok (readBE_of_admitted h)⟩
  · exact ⟨_, composeBE_window_toNat h, exec_readInt_of_ok (readBE_of_admitted h)⟩
  · exact ⟨_, composeBE_window_toNat h, exec_readLong_of_ok (readBE_of_admitted h)⟩

/-- Settles O2: at each width the composed word is the sum of R65. -/
theorem reversedReadsGiveTheSum : Obligations.ReversedReadsGiveTheSum := by
  unfold Obligations.ReversedReadsGiveTheSum
  intro seq off s
  refine ⟨fun h => ?_, fun h => ?_, fun h => ?_⟩
  · exact ⟨_, composeLE_window_toNat h, exec_readShortReversed_of_ok (readLE_of_admitted h)⟩
  · exact ⟨_, composeLE_window_toNat h, exec_readIntReversed_of_ok (readLE_of_admitted h)⟩
  · exact ⟨_, composeLE_window_toNat h, exec_readLongReversed_of_ok (readLE_of_admitted h)⟩

/-- Settles O4, by `readLE_eq_readBE_reverse` at each width. -/
theorem endianSymmetry : Obligations.EndianSymmetry := by
  unfold Obligations.EndianSymmetry
  intro seq off s
  refine ⟨fun h => ?_, fun h => ?_, fun h => ?_⟩
  · exact congrArg (fun r => respond (r.map Result.word16) s) (readLE_eq_readBE_reverse h)
  · exact congrArg (fun r => respond (r.map Result.word32) s) (readLE_eq_readBE_reverse h)
  · exact congrArg (fun r => respond (r.map Result.word64) s) (readLE_eq_readBE_reverse h)

/-- Settles O5, by `readBE_halves` and `readLE_halves` at the two half widths. -/
theorem wideReadsAreTwoHalves : Obligations.WideReadsAreTwoHalves := by
  unfold Obligations.WideReadsAreTwoHalves
  intro seq off s
  refine ⟨fun h => ?_, fun h => ?_, fun h => ?_, fun h => ?_⟩
  · obtain ⟨a, b, ha, hb, hab⟩ := readBE_halves (n := 2) h
    exact ⟨a, b, exec_readShort_of_ok ha, exec_readShort_of_ok hb, exec_readInt_of_ok hab⟩
  · obtain ⟨a, b, ha, hb, hab⟩ := readBE_halves (n := 4) h
    exact ⟨a, b, exec_readInt_of_ok ha, exec_readInt_of_ok hb, exec_readLong_of_ok hab⟩
  · obtain ⟨a, b, ha, hb, hab⟩ := readLE_halves (n := 2) h
    exact ⟨a, b, exec_readShortReversed_of_ok ha, exec_readShortReversed_of_ok hb, exec_readIntReversed_of_ok hab⟩
  · obtain ⟨a, b, ha, hb, hab⟩ := readLE_halves (n := 4) h
    exact ⟨a, b, exec_readIntReversed_of_ok ha, exec_readIntReversed_of_ok hb, exec_readLongReversed_of_ok hab⟩

end Sys2Proof.Machine
end

section
/-! The VarInt decoder, stage by stage: the discriminant is the byte at the offset (R66, R150), and from 253 on the payload after it
is read in the variant's byte order (R67, R151). -/

namespace Sys2Proof.Machine

variable {seq : ByteSeq} {off : Int} {n : Nat}

theorem readDiscriminant_of_admitted (h : Admitted seq off 1) : readDiscriminant seq off = .ok (byteAt seq off.toNat) := by
  have hbyte : (composeBE 8 (window seq off.toNat 1)).toNat = byteAt seq off.toNat := by
    rw [composeBE_window_toNat (n := 1) h]
    simp [beValue]
  rw [readDiscriminant, fetchBytes_eq, if_pos h, ← hbyte]
  rfl

theorem decodeVarIntCommon_of_le (ext : PayloadExt) (rev : Bool) (h : Admitted seq off 1)
    (hd : byteAt seq off.toNat ≤ 252) :
    decodeVarIntCommon ext rev seq off = .ok (.varInt (BitVec.ofNat 64 (byteAt seq off.toNat)) 1) := by
  simp only [decodeVarIntCommon, readDiscriminant_of_admitted h, if_pos hd]

/-- Both variants take the payload width from the discriminant alone. -/
theorem decodeVarIntCommon_of_ge (ext : PayloadExt) (rev : Bool) (h : Admitted seq off 1)
    (hd : 253 ≤ byteAt seq off.toNat) :
    decodeVarIntCommon ext rev seq off = readPayload ext rev seq off (payloadWidth (byteAt seq off.toNat)) := by
  have hsingle : ¬ byteAt seq off.toNat ≤ 252 := by omega
  simp only [decodeVarIntCommon, readDiscriminant_of_admitted h, payloadWidth, if_neg hsingle]
  split_ifs <;> rfl

/-- The payload of `n` bytes as a word, in the byte order of the variant. -/
def payloadWord (rev : Bool) (seq : ByteSeq) (a n : Nat) : BitVec (8 * n) :=
  if rev then composeLE (8 * n) (window seq a n) else composeBE (8 * n) (window seq a n)

theorem readPayload_of_admitted (ext : PayloadExt) (rev : Bool) (h : Admitted seq off (1 + n)) :
    readPayload ext rev seq off n = .ok (.varInt (widen ext (payloadWord rev seq (off.toNat + 1) n)) (1 + n)) := by
  have hpay : Admitted seq (off + 1) n := h.rest
  have hoff : (off + 1).toNat = off.toNat + 1 := h.toNat_add 1
  cases rev with
  | false =>
    simp only [readPayload, payloadWord, Bool.false_eq_true, if_false]
    rw [readBE_of_admitted hpay, hoff]
    rfl
  | true =>
    simp only [readPayload, payloadWord, if_true]
    rw [readLE_of_admitted hpay, hoff]
    rfl

theorem payloadWord_false_toNat (h : Admitted seq off (1 + n)) :
    (payloadWord false seq (off.toNat + 1) n).toNat = beValue seq (off.toNat + 1) n := by
  rw [← h.toNat_add 1]
  exact composeBE_window_toNat h.rest

theorem payloadWord_true_toNat (h : Admitted seq off (1 + n)) :
    (payloadWord true seq (off.toNat + 1) n).toNat = leValue seq (off.toNat + 1) n := by
  rw [← h.toNat_add 1]
  exact composeLE_window_toNat h.rest

/-- A decode whose whole payload is there: its value is the payload widened, its size 1 more than the payload's. -/
theorem decodeVarIntCommon_of_payload (ext : PayloadExt) (rev : Bool) (hd : 253 ≤ byteAt seq off.toNat)
    (hn : payloadWidth (byteAt seq off.toNat) = n) (h : Admitted seq off (1 + n)) :
    decodeVarIntCommon ext rev seq off =
      .ok (.varInt (widen ext (payloadWord rev seq (off.toNat + 1) n)) (1 + n)) := by
  rw [decodeVarIntCommon_of_ge ext rev (h.mono (by omega)) hd, hn, readPayload_of_admitted ext rev h]

/-- The payload stands in the low bits of the value, however it is widened (R152). -/
theorem setWidth_widen (ext : PayloadExt) (p : BitVec n) (hn : n ≤ 64) : (widen ext p).setWidth n = p := by
  cases ext with
  | zero => rw [widen, BitVec.setWidth_setWidth_of_le _ hn, BitVec.setWidth_eq]
  | sign =>
    ext i hi
    simp [widen, BitVec.getElem_signExtend, hi, show i < 64 by omega]

/-- R100's table for the discriminants that announce a payload. -/
theorem payloadWidth_of_discriminant {d : Nat} (h : (d = 253 ∧ n = 2) ∨ (d = 254 ∧ n = 4) ∨ (d = 255 ∧ n = 8)) :
    253 ≤ d ∧ payloadWidth d = n ∧ 8 * n ≤ 64 := by
  obtain ⟨rfl, rfl⟩ | ⟨rfl, rfl⟩ | ⟨rfl, rfl⟩ := h <;> decide

/-- Settles O7: neither stage that gives the size looks at the variant. -/
theorem discriminantIsUnsignedInBothVariants : Obligations.DiscriminantIsUnsignedInBothVariants := by
  unfold Obligations.DiscriminantIsUnsignedInBothVariants
  intro seq off s
  refine ⟨fun h hd => ?_, fun h hd => ?_⟩
  · refine ⟨_, ?_, exec_of_outcome_ok (decodeVarIntCommon_of_le _ false h hd),
      exec_of_outcome_ok (decodeVarIntCommon_of_le _ true h hd)⟩
    rw [BitVec.toNat_ofNat, Nat.mod_eq_of_lt (by omega)]
  · exact ⟨_, _, exec_of_outcome_ok (decodeVarIntCommon_of_payload _ false hd rfl h),
      exec_of_outcome_ok (decodeVarIntCommon_of_payload _ true hd rfl h)⟩

/-- Settles O8: the two variants read the same window, one by R64's sum and one by R65's. -/
theorem payloadOrderFollowsTheVariant : Obligations.PayloadOrderFollowsTheVariant := by
  unfold Obligations.PayloadOrderFollowsTheVariant
  rintro seq off s _ n hdn h rfl
  obtain ⟨hd, hn, hn64⟩ := payloadWidth_of_discriminant hdn
  exact ⟨⟨_, _, payloadWord_false_toNat h, setWidth_widen _ _ hn64,
      exec_of_outcome_ok (decodeVarIntCommon_of_payload _ false hd hn h)⟩,
    ⟨_, _, payloadWord_true_toNat h, setWidth_widen _ _ hn64,
      exec_of_outcome_ok (decodeVarIntCommon_of_payload _ true hd hn h)⟩⟩

end Sys2Proof.Machine
end

section
/-! The VarInt encoder: the bytes it writes are the base-256 digits of the value, least significant first (R68, R180). -/

namespace Sys2Proof.Machine

theorem byteAt_leBytes (v : Word64) {i n : Nat} (h : i < n) : byteAt (leBytes v n) i = v.toNat / 2 ^ (8 * i) % 256 := by
  simp [byteAt, leBytes, h, Nat.shiftRight_eq_div_pow]

/-- The first `n` digits of a number in base 256 give its low `8 * n` bits. -/
theorem sum_base256_digits (v n : Nat) :
    ∑ i ∈ Finset.range n, v / 2 ^ (8 * i) % 256 * 2 ^ (8 * i) = v % 2 ^ (8 * n) := by
  induction n with
  | zero => simp [Nat.mod_one]
  | succ n ih =>
    rw [Finset.sum_range_succ, ih, Nat.pow_mul, Nat.pow_mul, Nat.mod_pow_succ, Nat.mul_comm (_ % _)]

/-- The bytes written stand for the value's low bits, whatever its width. -/
theorem leValue_leBytes (v : Word64) (n : Nat) : leValue (leBytes v n) 0 n = v.toNat % 2 ^ (8 * n) := by
  rw [← sum_base256_digits]
  exact Finset.sum_congr rfl fun i hi => by rw [Nat.zero_add, byteAt_leBytes v (Finset.mem_range.mp hi)]

/-- Settles O15: a value in the size's range is its own low bits. -/
theorem encoderWritesLittleEndian : Obligations.EncoderWritesLittleEndian := by
  unfold Obligations.EncoderWritesLittleEndian
  intro val s n d hnd hval
  refine ⟨leBytes val n, ?_, leBytes_length val n, by rw [leValue_leBytes, Nat.mod_eq_of_lt hval]⟩
  obtain ⟨rfl, rfl⟩ | ⟨rfl, rfl⟩ | ⟨rfl, rfl⟩ := hnd
  · exact exec_of_outcome_ok rfl
  · exact exec_of_outcome_ok rfl
  · exact exec_of_outcome_ok rfl

end Sys2Proof.Machine
end

section
/-! The VarInt decoder as a whole: one equation for both of its stages, and what it sees of its sequence (R73, R101, R151). -/

namespace Sys2Proof.Machine

variable {seq seq' : ByteSeq} {off off' : Int} {a a' n : Nat}

/-- An instruction answers with a result exactly when its operation gives that result. -/
theorem exec_eq_ok_iff {i : Instr} {s : State} {r : Result} :
    exec i s = .next (s.answering (.ok r)) ↔ outcome s.params.payloadExt i = .ok r := by
  refine ⟨fun h => ?_, exec_of_outcome_ok⟩
  rw [exec_eq_answering] at h
  injection h with h
  have hanswer : answer s.params.payloadExt i = .ok r := Option.some.inj (congrArg State.response h)
  cases ho : outcome s.params.payloadExt i with
  | ok x => simpa [answer, ho] using hanswer
  | error e => simp [answer, ho] at hanswer

theorem readDiscriminant_of_not_admitted (h : ¬ Admitted seq off 1) : readDiscriminant seq off = .error .outOfBounds := by
  rw [readDiscriminant, fetchBytes_eq, if_neg h]
  rfl

theorem decodeVarIntCommon_of_not_admitted (ext : PayloadExt) (rev : Bool) (h : ¬ Admitted seq off 1) :
    decodeVarIntCommon ext rev seq off = .error .outOfBounds := by
  simp only [decodeVarIntCommon, readDiscriminant_of_not_admitted h]

theorem readPayload_of_not_admitted (ext : PayloadExt) (rev : Bool) (h : ¬ Admitted seq (off + 1) n) :
    readPayload ext rev seq off n = .error .outOfBounds := by
  cases rev with
  | false => rw [readPayload, if_neg Bool.false_ne_true, readBE_of_not_admitted h]; rfl
  | true => rw [readPayload, if_pos rfl, readLE_of_not_admitted h]; rfl

/-- Once the discriminant is there, the whole VarInt is there exactly when its payload is. -/
theorem Admitted.one_add_iff (h : Admitted seq off 1) : Admitted seq off (1 + n) ↔ Admitted seq (off + 1) n := by
  obtain ⟨hnonneg, _⟩ := h
  unfold Admitted
  omega

/-- The value of the VarInt at address `a`: a discriminant up to 252 itself, else the payload after it, widened (R150 to R152). -/
def varIntValue (ext : PayloadExt) (rev : Bool) (seq : ByteSeq) (a : Nat) : Word64 :=
  if byteAt seq a ≤ 252 then BitVec.ofNat 64 (byteAt seq a)
  else widen ext (payloadWord rev seq (a + 1) (payloadWidth (byteAt seq a)))

/-- A decode succeeds exactly when the bytes its discriminant asks for are all there, with no other condition (R151, R155). -/
theorem decodeVarIntCommon_eq (ext : PayloadExt) (rev : Bool) (seq : ByteSeq) (off : Int) :
    decodeVarIntCommon ext rev seq off =
      if Admitted seq off (1 + payloadWidth (byteAt seq off.toNat)) then
        .ok (.varInt (varIntValue ext rev seq off.toNat) (1 + payloadWidth (byteAt seq off.toNat)))
      else .error .outOfBounds := by
  by_cases hone : Admitted seq off 1
  · by_cases hd : byteAt seq off.toNat ≤ 252
    · have hn : payloadWidth (byteAt seq off.toNat) = 0 := if_pos hd
      rw [decodeVarIntCommon_of_le ext rev hone hd, hn, if_pos hone, varIntValue, if_pos hd]
    · by_cases hall : Admitted seq off (1 + payloadWidth (byteAt seq off.toNat))
      · rw [decodeVarIntCommon_of_payload ext rev (by omega) rfl hall, if_pos hall, varIntValue, if_neg hd]
      · rw [decodeVarIntCommon_of_ge ext rev hone (by omega), if_neg hall,
          readPayload_of_not_admitted ext rev (mt hone.one_add_iff.mpr hall)]
  · rw [decodeVarIntCommon_of_not_admitted ext rev hone, if_neg fun hall => hone (hall.mono (by omega))]

theorem decodeVarIntCommon_eq_ok_iff {ext : PayloadExt} {rev : Bool} {v : Word64} {k : Nat} :
    decodeVarIntCommon ext rev seq off = .ok (.varInt v k) ↔
      k = 1 + payloadWidth (byteAt seq off.toNat) ∧ Admitted seq off k ∧ v = varIntValue ext rev seq off.toNat := by
  rw [decodeVarIntCommon_eq]
  constructor
  · intro h
    split_ifs at h with hall
    cases h
    exact ⟨rfl, hall, rfl⟩
  · rintro ⟨rfl, hall, rfl⟩
    exact if_pos hall

/-- A window is determined by its bytes, wherever it lies (R73). -/
theorem window_congr (h : a + n ≤ seq.length) (h' : a' + n ≤ seq'.length)
    (hbytes : ∀ i < n, byteAt seq (a + i) = byteAt seq' (a' + i)) : window seq a n = window seq' a' n := by
  refine List.ext_getElem (by rw [window_length_of_le h, window_length_of_le h']) fun i hi _ => ?_
  rw [window_length_of_le h] at hi
  have hin : a + i < seq.length := by omega
  have hin' : a' + i < seq'.length := by omega
  apply BitVec.eq_of_toNat_eq
  simpa [window, byteAt, hin, hin'] using hbytes i hi

theorem varIntValue_congr (ext : PayloadExt) (rev : Bool) (h : a + (1 + payloadWidth (byteAt seq a)) ≤ seq.length)
    (h' : a' + (1 + payloadWidth (byteAt seq a)) ≤ seq'.length)
    (hbytes : ∀ i < 1 + payloadWidth (byteAt seq a), byteAt seq (a + i) = byteAt seq' (a' + i)) :
    varIntValue ext rev seq a = varIntValue ext rev seq' a' := by
  have hd : byteAt seq a = byteAt seq' a' := hbytes 0 (by omega)
  have hpay : window seq (a + 1) (payloadWidth (byteAt seq a)) = window seq' (a' + 1) (payloadWidth (byteAt seq a)) :=
    window_congr (by omega) (by omega) fun i hi => by simpa only [Nat.add_assoc] using hbytes (1 + i) (by omega)
  rw [varIntValue, varIntValue, payloadWord, payloadWord, ← hd, hpay]

/-- R73 and R101 for both variants: the discriminant gives the size, and the bytes of that size give the value. -/
theorem decodeVarIntCommon_ok_congr {ext : PayloadExt} {rev : Bool} {v : Word64} {k : Nat} (h' : Admitted seq' off' k)
    (hbytes : ∀ i < k, byteAt seq (off.toNat + i) = byteAt seq' (off'.toNat + i))
    (h : decodeVarIntCommon ext rev seq off = .ok (.varInt v k)) :
    decodeVarIntCommon ext rev seq' off' = .ok (.varInt v k) := by
  obtain ⟨rfl, hall, rfl⟩ := decodeVarIntCommon_eq_ok_iff.mp h
  have hd : byteAt seq off.toNat = byteAt seq' off'.toNat := hbytes 0 (by omega)
  exact decodeVarIntCommon_eq_ok_iff.mpr
    ⟨by rw [hd], h', varIntValue_congr ext rev hall.toNat_add_le h'.toNat_add_le hbytes⟩

/-- Settles O14, by `decodeVarIntCommon_ok_congr` for each variant. -/
theorem decodesSeeTheirVarIntAlone : Obligations.DecodesSeeTheirVarIntAlone := by
  unfold Obligations.DecodesSeeTheirVarIntAlone
  intro seq seq' off off' s v k h' hbytes
  refine ⟨fun h => ?_, fun h => ?_⟩
  · exact exec_eq_ok_iff.mpr (decodeVarIntCommon_ok_congr h' hbytes (exec_eq_ok_iff.mp h))
  · exact exec_eq_ok_iff.mpr (decodeVarIntCommon_ok_congr h' hbytes (exec_eq_ok_iff.mp h))

end Sys2Proof.Machine
end

section
/-! The encoder's inversion lemma: a result comes from one of its four sizes (R180, R184). -/

namespace Sys2Proof.Machine

/-- What the encoder writes at each of its four sizes (R180). -/
theorem encodeVarIntBytes_eq_ok_iff {val : Word64} {size : Int} {out : ByteSeq} :
    encodeVarIntBytes val size = .ok out ↔
      (size = 1 ∧ out = leBytes val 1) ∨ (size = 3 ∧ out = 0xFD#8 :: leBytes val 2) ∨
      (size = 5 ∧ out = 0xFE#8 :: leBytes val 4) ∨ (size = 9 ∧ out = 0xFF#8 :: leBytes val 8) := by
  constructor
  · intro h
    unfold encodeVarIntBytes at h
    split_ifs at h with h1 h3 h5 h9
    · cases h; exact .inl ⟨h1, rfl⟩
    · cases h; exact .inr (.inl ⟨h3, rfl⟩)
    · cases h; exact .inr (.inr (.inl ⟨h5, rfl⟩))
    · cases h; exact .inr (.inr (.inr ⟨h9, rfl⟩))
  · rintro (⟨rfl, rfl⟩ | ⟨rfl, rfl⟩ | ⟨rfl, rfl⟩ | ⟨rfl, rfl⟩) <;> rfl

end Sys2Proof.Machine
end

section
/-! The invariant: every response the unit forms is legal (R100, R153, R185), so a step, which hands out one more, keeps `Inv`. -/

namespace Sys2Proof.Machine

variable {n : Nat}

/-- A widened word is the word itself or, under sign extension, lies in the negative half (R152). -/
theorem toNat_widen_bounds (ext : PayloadExt) (p : BitVec n) (hn : n ≤ 64) :
    (widen ext p).toNat < 2 ^ n ∨ 2 ^ 64 - 2 ^ (n - 1) ≤ (widen ext p).toNat := by
  have hfit : (p.setWidth 64).toNat = p.toNat := BitVec.toNat_setWidth_of_le hn
  cases ext with
  | zero =>
    left
    rw [widen, hfit]
    exact p.isLt
  | sign =>
    rw [widen, BitVec.toNat_signExtend, hfit]
    by_cases hneg : p.msb = true
    · right
      have htop : 2 ^ (n - 1) ≤ p.toNat := BitVec.le_toNat_of_msb_true hneg
      have hpos : n - 1 < n := (Nat.pow_lt_pow_iff_right Nat.one_lt_two).mp (htop.trans_lt p.isLt)
      have hhalf : 2 ^ n = 2 ^ (n - 1) + 2 ^ (n - 1) := by
        rw [← Nat.two_mul, ← Nat.pow_succ', Nat.succ_eq_add_one, Nat.sub_add_cancel (by omega)]
      have hle : 2 ^ n ≤ 2 ^ 64 := Nat.pow_le_pow_right Nat.two_pos hn
      rw [if_pos hneg]
      omega
    · left
      rw [if_neg hneg]
      exact p.isLt

/-- R100's table, read from the payload width: nothing, or 2, 4 or 8 bytes. -/
theorem payloadWidth_cases {d : Nat} (h : ¬ d ≤ 252) : payloadWidth d = 2 ∨ payloadWidth d = 4 ∨ payloadWidth d = 8 := by
  simp only [payloadWidth, if_neg h]
  split_ifs <;> simp

/-- A payload of each width, widened either way, is a legal value of its size. -/
theorem legal_varInt_widen (ext : PayloadExt) (p : BitVec (8 * n)) (hn : n = 2 ∨ n = 4 ∨ n = 8) :
    (Result.varInt (widen ext p) (1 + n)).legal = true := by
  obtain rfl | rfl | rfl := hn
  · have hbounds := toNat_widen_bounds ext p (by decide)
    simpa [Result.legal] using hbounds
  · have hbounds := toNat_widen_bounds ext p (by decide)
    simpa [Result.legal] using hbounds
  · simp [Result.legal]

theorem legal_varIntValue (ext : PayloadExt) (rev : Bool) (seq : ByteSeq) (a : Nat) :
    (Result.varInt (varIntValue ext rev seq a) (1 + payloadWidth (byteAt seq a))).legal = true := by
  by_cases hd : byteAt seq a ≤ 252
  · have hn : payloadWidth (byteAt seq a) = 0 := if_pos hd
    have hv : (BitVec.ofNat 64 (byteAt seq a)).toNat ≤ 252 := by
      rwa [BitVec.toNat_ofNat, Nat.mod_eq_of_lt (by omega)]
    rw [varIntValue, if_pos hd, hn]
    simpa [Result.legal] using hv
  · rw [varIntValue, if_neg hd]
    exact legal_varInt_widen ext _ (payloadWidth_cases hd)

theorem legal_decode (ext : PayloadExt) (rev : Bool) (seq : ByteSeq) (off : Int) :
    (Response.ofExcept (decodeVarIntCommon ext rev seq off)).legal = true := by
  rw [decodeVarIntCommon_eq]
  split_ifs
  · exact legal_varIntValue ext rev seq off.toNat
  · rfl

theorem legal_encodeVarIntBytes {val : Word64} {size : Int} {out : ByteSeq} (h : encodeVarIntBytes val size = .ok out) :
    (Result.bytes out).legal = true := by
  obtain ⟨_, rfl⟩ | ⟨_, rfl⟩ | ⟨_, rfl⟩ | ⟨_, rfl⟩ := encodeVarIntBytes_eq_ok_iff.mp h <;> simp [Result.legal]

/-- An error is a legal response, so only the result of an operation that succeeds is to be checked. -/
theorem legal_ofExcept_map {α : Type} {x : Except ErrorKind α} {f : α → Result} (h : ∀ y, x = .ok y → (f y).legal = true) :
    (Response.ofExcept (x.map f)).legal = true := by
  cases x with
  | ok y => exact h y rfl
  | error e => rfl

/-- Every response the unit forms is legal; a read's result always is. -/
theorem legal_answer (ext : PayloadExt) (i : Instr) : (answer ext i).legal = true := by
  cases i with
  | readShort | readShortReversed | readInt | readIntReversed | readLong | readLongReversed =>
    exact legal_ofExcept_map fun _ _ => rfl
  | decodeVarInt seq off => exact legal_decode ext false seq off
  | decodeVarIntReversed seq off => exact legal_decode ext true seq off
  | encodeVarInt val size => exact legal_ofExcept_map fun _ => legal_encodeVarIntBytes
  | reservedReversedEncoder | reserved101 | reserved11 => rfl

/-- Answering the request at the head keeps the invariant: the others stay accepted, and the response handed out is legal. -/
theorem Inv.served {s : State} {q : Issued} {rest : List Issued} (h : Inv s) (hw : s.waiting = q :: rest) :
    Inv (s.served q rest) := by
  obtain ⟨haccepted, _, hlegal⟩ := h
  refine ⟨fun x hx => haccepted x (hw ▸ List.mem_cons_of_mem q hx), rfl, fun d hd => ?_⟩
  rw [State.served_delivered, List.mem_append, List.mem_singleton] at hd
  obtain hold | rfl := hd
  · exact hlegal d hold
  · exact legal_answer _ _

/-- Settles O43: an idle step changes nothing, any other step answers one request, by `Inv.served`. -/
theorem stepKeepsTheInvariant : Obligations.StepKeepsTheInvariant := by
  unfold Obligations.StepKeepsTheInvariant
  intro s t hInv hstep
  cases hw : s.waiting with
  | nil =>
    rw [step_of_waiting_nil hw] at hstep
    cases hstep
    exact hInv
  | cons q rest =>
    rw [step_eq_served hw] at hstep
    cases hstep
    exact hInv.served hw

end Sys2Proof.Machine
end

section
/-! What a fixed-width read sees of its sequence: an admitted read is a function of its window (R73, R129). -/

namespace Sys2Proof.Machine

variable {seq seq' : ByteSeq} {off off' : Int} {n : Nat}

theorem Admitted.window_congr (h : Admitted seq off n) (h' : Admitted seq' off' n)
    (hbytes : ∀ i < n, byteAt seq (off.toNat + i) = byteAt seq' (off'.toNat + i)) :
    window seq off.toNat n = window seq' off'.toNat n :=
  Machine.window_congr h.toNat_add_le h'.toNat_add_le hbytes

theorem readBE_congr (h : Admitted seq off n) (h' : Admitted seq' off' n)
    (hbytes : ∀ i < n, byteAt seq (off.toNat + i) = byteAt seq' (off'.toNat + i)) :
    readBE seq off n = readBE seq' off' n := by
  rw [readBE_of_admitted h, readBE_of_admitted h', h.window_congr h' hbytes]

theorem readLE_congr (h : Admitted seq off n) (h' : Admitted seq' off' n)
    (hbytes : ∀ i < n, byteAt seq (off.toNat + i) = byteAt seq' (off'.toNat + i)) :
    readLE seq off n = readLE seq' off' n := by
  rw [readLE_of_admitted h, readLE_of_admitted h', h.window_congr h' hbytes]

/-- Settles O6: at each width a read is `readBE` or `readLE`, and neither sees more than its window. -/
theorem readsSeeTheirWindowAlone : Obligations.ReadsSeeTheirWindowAlone := by
  unfold Obligations.ReadsSeeTheirWindowAlone
  intro seq seq' off off' s
  refine ⟨fun h h' hbytes => ⟨?_, ?_⟩, fun h h' hbytes => ⟨?_, ?_⟩, fun h h' hbytes => ⟨?_, ?_⟩⟩
  · exact congrArg (fun r => respond (r.map Result.word16) s) (readBE_congr h h' hbytes)
  · exact congrArg (fun r => respond (r.map Result.word16) s) (readLE_congr h h' hbytes)
  · exact congrArg (fun r => respond (r.map Result.word32) s) (readBE_congr h h' hbytes)
  · exact congrArg (fun r => respond (r.map Result.word32) s) (readLE_congr h h' hbytes)
  · exact congrArg (fun r => respond (r.map Result.word64) s) (readBE_congr h h' hbytes)
  · exact congrArg (fun r => respond (r.map Result.word64) s) (readLE_congr h h' hbytes)

end Sys2Proof.Machine
end

section
/-! The decoder's sizes and errors: either decode is `decodeVarIntCommon`, so its one equation gives what a success consumes (R153),
what a cut payload answers (R154) and that nothing else is checked (R155). -/

namespace Sys2Proof.Machine

variable {seq : ByteSeq} {off : Int} {i : Instr} {s : State}

theorem exec_of_outcome_error {e : ErrorKind} (h : outcome s.params.payloadExt i = .error e) :
    exec i s = .next (s.answering (.error e)) := by
  rw [exec_eq_answering, answer, h, Response.ofExcept_error]

/-- A decode of either variant is the one algorithm of R151. -/
theorem outcome_of_decode (hi : i = .decodeVarInt seq off ∨ i = .decodeVarIntReversed seq off) :
    ∃ rev : Bool, ∀ ext, outcome ext i = decodeVarIntCommon ext rev seq off := by
  obtain rfl | rfl := hi
  · exact ⟨false, fun _ => rfl⟩
  · exact ⟨true, fun _ => rfl⟩

/-- The four encoded sizes of R100's table. -/
theorem one_add_payloadWidth_cases (d : Nat) :
    1 + payloadWidth d = 1 ∨ 1 + payloadWidth d = 3 ∨ 1 + payloadWidth d = 5 ∨ 1 + payloadWidth d = 9 := by
  by_cases hd : d ≤ 252
  · exact .inl (by rw [payloadWidth, if_pos hd])
  · have := payloadWidth_cases hd
    omega

/-- Settles O10: a success consumes the bytes its discriminant asks for, at most 9, so VSIZE's four bits hold their number. -/
theorem decodedSizeIsTheBytesConsumed : Obligations.DecodedSizeIsTheBytesConsumed := by
  unfold Obligations.DecodedSizeIsTheBytesConsumed
  intro seq off s v k i hi h
  obtain ⟨rev, hout⟩ := outcome_of_decode hi
  have hok : decodeVarIntCommon s.params.payloadExt rev seq off = .ok (.varInt v k) :=
    (hout _).symm.trans (exec_eq_ok_iff.mp h)
  obtain ⟨hk, hall, _⟩ := decodeVarIntCommon_eq_ok_iff.mp hok
  have hsize : k = 1 ∨ k = 3 ∨ k = 5 ∨ k = 9 := hk ▸ one_add_payloadWidth_cases _
  refine ⟨hsize, hk, hall, rfl, BitVec.ofNat 4 k, rfl, ?_⟩
  rw [BitVec.toNat_ofNat, Nat.mod_eq_of_lt (by omega)]

/-- Settles O11: with its payload cut short the VarInt is not all there, and an error carries no field. -/
theorem payloadCutShortReturnsNothing : Obligations.PayloadCutShortReturnsNothing := by
  unfold Obligations.PayloadCutShortReturnsNothing
  rintro seq off s _ n i hdn hi _ rfl hcut
  obtain ⟨rev, hout⟩ := outcome_of_decode hi
  obtain ⟨_, hn, _⟩ := payloadWidth_of_discriminant hdn
  have hshort : ¬ Admitted seq off (1 + payloadWidth (byteAt seq off.toNat)) := by
    rintro ⟨_, hin⟩
    rw [hn] at hin
    omega
  refine ⟨.error .outOfBounds, exec_of_outcome_error ?_, rfl, Response.fields_error _⟩
  rw [hout, decodeVarIntCommon_eq, if_neg hshort]

/-- Settles O12: that the bytes are there is the only condition of `decodeVarIntCommon_eq`. -/
theorem everyFormPresentDecodes : Obligations.EveryFormPresentDecodes := by
  unfold Obligations.EveryFormPresentDecodes
  intro seq off s i hi _ hall
  obtain ⟨rev, hout⟩ := outcome_of_decode hi
  refine ⟨varIntValue s.params.payloadExt rev seq off.toNat, exec_of_outcome_ok ?_⟩
  rw [hout, decodeVarIntCommon_eq, if_pos hall]

end Sys2Proof.Machine
end

section
/-! Byte reversal: the bytes of a window are the base-256 digits of its little-endian sum, so reversing them gives its big-endian
sum (R64, R65, R156). -/

namespace Sys2Proof.Machine

theorem byteAt_lt (seq : ByteSeq) (a : Nat) : byteAt seq a < 256 := (seq.getD a 0#8).isLt

/-- The first byte of a window is the last digit of its little-endian sum. -/
theorem leValue_succ_left (seq : ByteSeq) (a n : Nat) :
    leValue seq a (n + 1) = byteAt seq a + 256 * leValue seq (a + 1) n := by
  rw [leValue, Finset.sum_range_succ', leValue, Finset.mul_sum, Nat.add_comm]
  congr 1
  · simp
  · refine Finset.sum_congr rfl fun i _ => ?_
    rw [Nat.mul_succ, Nat.pow_add, show a + (i + 1) = a + 1 + i by omega]
    ring

/-- The `i`-th base-256 digit of a little-endian sum is the `i`-th byte of its window. -/
theorem leValue_digit (seq : ByteSeq) (a : Nat) {i n : Nat} (h : i < n) :
    leValue seq a n / 2 ^ (8 * i) % 256 = byteAt seq (a + i) := by
  induction i generalizing a n with
  | zero =>
    obtain ⟨m, rfl⟩ := Nat.exists_eq_add_one.mpr (Nat.zero_lt_of_lt h)
    have := byteAt_lt seq a
    simp only [leValue_succ_left, Nat.mul_zero, Nat.pow_zero, Nat.div_one, Nat.add_zero]
    omega
  | succ i ih =>
    obtain ⟨m, rfl⟩ := Nat.exists_eq_add_one.mpr (Nat.zero_lt_of_lt h)
    have hrest : (byteAt seq a + 256 * leValue seq (a + 1) m) / 2 ^ 8 = leValue seq (a + 1) m := by
      have := byteAt_lt seq a
      omega
    rw [leValue_succ_left, show 8 * (i + 1) = 8 + 8 * i by ring, Nat.pow_add, ← Nat.div_div_eq_div_mul, hrest,
      ih (a + 1) (by omega), show a + 1 + i = a + (i + 1) by omega]

theorem bswap_leValue (seq : ByteSeq) (a n : Nat) : bswap n (leValue seq a n) = beValue seq a n :=
  Finset.sum_congr rfl fun _ hi => by rw [leValue_digit seq a (Finset.mem_range.mp hi)]

theorem widen_zero_toNat {n : Nat} (p : BitVec n) (hn : n ≤ 64) : (widen .zero p).toNat = p.toNat :=
  BitVec.toNat_setWidth_of_le hn

/-- Settles O13: on one byte neither variant reads a payload; on a payload they compose the two sums of one window. -/
theorem variantsAreByteReversalsOfEachOther : Obligations.VariantsAreByteReversalsOfEachOther := by
  unfold Obligations.VariantsAreByteReversalsOfEachOther
  intro seq off s hext
  refine ⟨fun h hd => ?_, fun hd h => ?_⟩
  · exact ⟨_, exec_of_outcome_ok (decodeVarIntCommon_of_le _ false h hd),
      exec_of_outcome_ok (decodeVarIntCommon_of_le _ true h hd)⟩
  · refine ⟨_, _, _, exec_of_outcome_ok (decodeVarIntCommon_of_payload _ false hd rfl h),
      exec_of_outcome_ok (decodeVarIntCommon_of_payload _ true hd rfl h), ?_⟩
    have hwidth : 8 * payloadWidth (byteAt seq off.toNat) ≤ 64 := by
      have := payloadWidth_cases (by omega : ¬ byteAt seq off.toNat ≤ 252)
      omega
    rw [hext, widen_zero_toNat _ hwidth, widen_zero_toNat _ hwidth, payloadWord_false_toNat h, payloadWord_true_toNat h,
      bswap_leValue]

end Sys2Proof.Machine
end

section
/-! The encoder's outcome by its size: the size alone decides between InvalidSize and an output of that many bytes with R100's
first byte (R181, R184, R185), and the single byte of size 1 may be a discriminant (R182). -/

namespace Sys2Proof.Machine

variable {val : Word64} {size : Int} {out : ByteSeq} {s : State}

/-- The encoder's only check (R181): a size off R100's table, and nothing else, is an error, and the error is InvalidSize. -/
theorem encodeVarIntBytes_eq_error_iff {e : ErrorKind} :
    encodeVarIntBytes val size = .error e ↔ e = .invalidSize ∧ ¬(size = 1 ∨ size = 3 ∨ size = 5 ∨ size = 9) := by
  unfold encodeVarIntBytes
  split_ifs with h1 h3 h5 h9
  · simp [h1]
  · simp [h3]
  · simp [h5]
  · simp [h9]
  · simp [h1, h3, h5, h9, eq_comm]

theorem size_of_encodeVarIntBytes_ok (h : encodeVarIntBytes val size = .ok out) :
    size = 1 ∨ size = 3 ∨ size = 5 ∨ size = 9 :=
  (encodeVarIntBytes_eq_ok_iff.mp h).imp And.left (Or.imp And.left (Or.imp And.left And.left))

theorem encodeVarIntBytes_ok_of_size (val : Word64) (h : size = 1 ∨ size = 3 ∨ size = 5 ∨ size = 9) :
    ∃ out, encodeVarIntBytes val size = .ok out := by
  cases henc : encodeVarIntBytes val size with
  | ok out => exact ⟨out, rfl⟩
  | error e => exact absurd h (encodeVarIntBytes_eq_error_iff.mp henc).right

theorem length_of_encodeVarIntBytes_ok (h : encodeVarIntBytes val size = .ok out) : (out.length : Int) = size := by
  obtain ⟨rfl, rfl⟩ | ⟨rfl, rfl⟩ | ⟨rfl, rfl⟩ | ⟨rfl, rfl⟩ := encodeVarIntBytes_eq_ok_iff.mp h <;> rfl

/-- The first byte of a longer output is the discriminant of its size, whatever the value (R100, R184). -/
theorem head?_of_encodeVarIntBytes_ok (h : encodeVarIntBytes val size = .ok out) :
    (size = 3 → out.head? = some 0xFD#8) ∧ (size = 5 → out.head? = some 0xFE#8) ∧
      (size = 9 → out.head? = some 0xFF#8) := by
  obtain ⟨rfl, rfl⟩ | ⟨rfl, rfl⟩ | ⟨rfl, rfl⟩ | ⟨rfl, rfl⟩ := encodeVarIntBytes_eq_ok_iff.mp h <;> simp

theorem exec_encodeVarInt_of_ok (h : encodeVarIntBytes val size = .ok out) :
    exec (.encodeVarInt val size) s = .next (s.answering (.ok (.bytes out))) :=
  exec_of_outcome_ok (congrArg (Except.map Result.bytes) h)

theorem exec_encodeVarInt_of_error {e : ErrorKind} (h : encodeVarIntBytes val size = .error e) :
    exec (.encodeVarInt val size) s = .next (s.answering (.error e)) :=
  exec_of_outcome_error (congrArg (Except.map Result.bytes) h)

/-- A next state that carries a response is the old one with it, and the response is the answer. -/
theorem eq_answering_of_exec {i : Instr} {t : State} {r : Response} (h : exec i s = .next t) (hr : t.response = some r) :
    t = s.answering r ∧ answer s.params.payloadExt i = r := by
  rw [exec_eq_answering] at h
  cases h
  obtain rfl : answer s.params.payloadExt i = r := Option.some.inj hr
  exact ⟨rfl, rfl⟩

/-- An OK answer of the encoder carries the bytes it wrote. -/
theorem answer_encodeVarInt_eq_ok {ext : PayloadExt} {r : Result} (h : answer ext (.encodeVarInt val size) = .ok r) :
    ∃ out, encodeVarIntBytes val size = .ok out ∧ r = .bytes out := by
  cases henc : encodeVarIntBytes val size with
  | ok out =>
    rw [answer, outcome, henc] at h
    cases h
    exact ⟨out, rfl, rfl⟩
  | error e =>
    rw [answer, outcome, henc] at h
    cases h

/-- Settles O18: the check is on the size alone, and an answer is not both an error and an output. -/
theorem invalidSizeExactly : Obligations.InvalidSizeExactly := by
  unfold Obligations.InvalidSizeExactly
  intro val size s
  have hvalid (h : size = 1 ∨ size = 3 ∨ size = 5 ∨ size = 9) :
      ∃ out, exec (.encodeVarInt val size) s = .next (s.answering (.ok (.bytes out))) :=
    (encodeVarIntBytes_ok_of_size val h).imp fun _ => exec_encodeVarInt_of_ok
  refine ⟨⟨fun herr h => ?_, fun h => ?_⟩, hvalid, rfl, rfl⟩
  · obtain ⟨out, hok⟩ := hvalid h
    obtain ⟨_, hanswer⟩ := eq_answering_of_exec herr rfl
    obtain ⟨_, hanswer'⟩ := eq_answering_of_exec hok rfl
    cases hanswer.symm.trans hanswer'
  · exact exec_encodeVarInt_of_error (encodeVarIntBytes_eq_error_iff.mpr ⟨rfl, h⟩)

/-- Settles O19: an OK answer is an output of the size asked for, at most 9, so OLEN's four bits hold its length. -/
theorem outputLengthIsTheSize : Obligations.OutputLengthIsTheSize := by
  unfold Obligations.OutputLengthIsTheSize
  intro val size s t r h hr hstatus
  obtain ⟨ht, hanswer⟩ := eq_answering_of_exec h hr
  obtain ⟨x, rfl⟩ := (Response.status_eq_ok_iff r).mp hstatus
  obtain ⟨out, henc, rfl⟩ := answer_encodeVarInt_eq_ok hanswer
  have hlen := length_of_encodeVarIntBytes_ok henc
  have hsize := size_of_encodeVarIntBytes_ok henc
  refine ⟨ht, hsize, out, BitVec.ofNat 4 out.length, rfl, hlen, rfl, rfl, ?_⟩
  rw [BitVec.toNat_ofNat, Nat.mod_eq_of_lt (by omega), hlen]

/-- Settles O20: whether the size is valid, the output's length and its first byte are each fixed by the size. -/
theorem encoderSwitchesOnTheSizeAlone : Obligations.EncoderSwitchesOnTheSizeAlone := by
  unfold Obligations.EncoderSwitchesOnTheSizeAlone
  intro val val' size s
  by_cases hsize : size = 1 ∨ size = 3 ∨ size = 5 ∨ size = 9
  · right
    obtain ⟨out, henc⟩ := encodeVarIntBytes_ok_of_size val hsize
    obtain ⟨out', henc'⟩ := encodeVarIntBytes_ok_of_size val' hsize
    obtain ⟨h3, h5, h9⟩ := head?_of_encodeVarIntBytes_ok henc
    obtain ⟨h3', h5', h9'⟩ := head?_of_encodeVarIntBytes_ok henc'
    exact ⟨out, out', exec_encodeVarInt_of_ok henc, exec_encodeVarInt_of_ok henc',
      length_of_encodeVarIntBytes_ok henc, length_of_encodeVarIntBytes_ok henc',
      fun h => ⟨h3 h, h3' h⟩, fun h => ⟨h5 h, h5' h⟩, fun h => ⟨h9 h, h9' h⟩⟩
  · left
    exact ⟨exec_encodeVarInt_of_error (encodeVarIntBytes_eq_error_iff.mpr ⟨rfl, hsize⟩),
      exec_encodeVarInt_of_error (encodeVarIntBytes_eq_error_iff.mpr ⟨rfl, hsize⟩)⟩

/-- A byte followed by as many bytes as it asks for is there in full; with fewer it is not. -/
theorem admitted_cons_iff (b : Byte) (more : ByteSeq) (n : Nat) :
    Admitted (b :: more) 0 (1 + n) ↔ n ≤ more.length := by
  rw [Admitted, List.length_cons]
  omega

theorem decodeVarIntCommon_cons (ext : PayloadExt) (rev : Bool) (b : Byte) (more : ByteSeq) :
    decodeVarIntCommon ext rev (b :: more) 0 =
      if payloadWidth b.toNat ≤ more.length then
        .ok (.varInt (varIntValue ext rev (b :: more) 0) (1 + payloadWidth b.toNat))
      else .error .outOfBounds := by
  rw [decodeVarIntCommon_eq]
  exact if_congr (admitted_cons_iff b more _) rfl rfl

/-- Settles O17: from 253 on the byte asks for a payload, which no byte alone has. -/
theorem sizeOneWritesOneByte : Obligations.SizeOneWritesOneByte := by
  unfold Obligations.SizeOneWritesOneByte
  intro val s
  refine ⟨val.extractLsb' 0 8, exec_encodeVarInt_of_ok rfl, by simp, fun hb => ?_⟩
  set b : Byte := val.extractLsb' 0 8
  have hwidth : 1 ≤ payloadWidth b.toNat := by
    have := payloadWidth_cases (by omega : ¬ b.toNat ≤ 252)
    omega
  have halone (rev : Bool) : decodeVarIntCommon s.params.payloadExt rev [b] 0 = .error .outOfBounds :=
    (decodeVarIntCommon_cons _ rev b []).trans (if_neg (Nat.not_le.mpr hwidth))
  refine ⟨exec_of_outcome_error (halone false), exec_of_outcome_error (halone true), fun more hmore => ?_⟩
  have hfollowed (rev : Bool) := (decodeVarIntCommon_cons s.params.payloadExt rev b more).trans (if_pos hmore)
  exact ⟨_, _, _, by omega, exec_of_outcome_ok (hfollowed false), exec_of_outcome_ok (hfollowed true)⟩

end Sys2Proof.Machine
end

section
/-! Encoder output read back: its first byte is the discriminant of its size and its payload the low bits of the value, so either
decode takes all of it, the reversed one as the value (R187) and the other as its byte reversal (R188). -/

namespace Sys2Proof.Machine

variable {val : Word64} {size : Int} {n : Nat} {d : Byte} {ext : PayloadExt}

/-- R100's table from the second row on: discriminant byte and payload width of a form longer than one byte. -/
def PayloadForm (d : Byte) (n : Nat) : Prop :=
  (d.toNat = 253 ∧ n = 2) ∨ (d.toNat = 254 ∧ n = 4) ∨ (d.toNat = 255 ∧ n = 8)

theorem PayloadForm.width_bounds (h : PayloadForm d n) : 0 < n ∧ n ≤ 8 := by
  unfold PayloadForm at h
  omega

/-- A value in its size's range is written as one byte that is no discriminant, or as a payload it fits after one. -/
theorem encodeVarIntBytes_of_inRange (h : InRange size val.toNat) :
    (size = 1 ∧ val.toNat ≤ 252 ∧ encodeVarIntBytes val size = .ok (leBytes val 1)) ∨
    ∃ d n, PayloadForm d n ∧ size = 1 + n ∧ val.toNat < 2 ^ (8 * n) ∧
      encodeVarIntBytes val size = .ok (d :: leBytes val n) := by
  obtain ⟨rfl, hval⟩ | ⟨rfl, hval⟩ | ⟨rfl, hval⟩ | ⟨rfl, hval⟩ := h
  · exact .inl ⟨rfl, hval, rfl⟩
  · exact .inr ⟨0xFD#8, 2, .inl ⟨rfl, rfl⟩, rfl, hval, rfl⟩
  · exact .inr ⟨0xFE#8, 4, .inr (.inl ⟨rfl, rfl⟩), rfl, hval, rfl⟩
  · exact .inr ⟨0xFF#8, 8, .inr (.inr ⟨rfl, rfl⟩), rfl, hval, rfl⟩

/-- Up to 252 the byte written at size 1 decodes as itself, in either variant. -/
theorem decodeVarIntCommon_leBytes_one (ext : PayloadExt) (rev : Bool) (hval : val.toNat ≤ 252) :
    decodeVarIntCommon ext rev (leBytes val 1) 0 = .ok (.varInt val 1) := by
  have hbyte : byteAt (leBytes val 1) 0 = val.toNat := by
    rw [byteAt_leBytes val Nat.one_pos]
    omega
  have hone : Admitted (leBytes val 1) 0 1 := ⟨le_rfl, by simp⟩
  rw [decodeVarIntCommon_of_le ext rev hone (hbyte.trans_le hval)]
  simp [hbyte]

theorem admitted_cons_leBytes (d : Byte) (val : Word64) (n : Nat) : Admitted (d :: leBytes val n) 0 (1 + n) :=
  (admitted_cons_iff d _ n).mpr (leBytes_length val n).ge

/-- After a discriminant the decoder takes exactly the bytes the encoder wrote for it, in either variant. -/
theorem decodeVarIntCommon_cons_leBytes (ext : PayloadExt) (rev : Bool) (val : Word64) (hdn : PayloadForm d n) :
    decodeVarIntCommon ext rev (d :: leBytes val n) 0 =
      .ok (.varInt (widen ext (payloadWord rev (d :: leBytes val n) 1 n)) (1 + n)) := by
  obtain ⟨hd, hn, _⟩ := payloadWidth_of_discriminant hdn
  exact decodeVarIntCommon_of_payload ext rev hd hn (admitted_cons_leBytes d val n)

theorem leValue_cons_leBytes (d : Byte) (hval : val.toNat < 2 ^ (8 * n)) :
    leValue (d :: leBytes val n) 1 n = val.toNat :=
  calc leValue (d :: leBytes val n) 1 n
      = leValue (leBytes val n) 0 n := Finset.sum_congr rfl fun i _ => by rw [Nat.add_comm 1, Nat.zero_add]; rfl
    _ = val.toNat := by rw [leValue_leBytes, Nat.mod_eq_of_lt hval]

/-- Read little-endian, the payload written is the value (R187). -/
theorem payloadWord_true_cons_leBytes (d : Byte) (hval : val.toNat < 2 ^ (8 * n)) :
    (payloadWord true (d :: leBytes val n) 1 n).toNat = val.toNat :=
  (payloadWord_true_toNat (admitted_cons_leBytes d val n)).trans (leValue_cons_leBytes d hval)

/-- Read big-endian, the payload written is the value's byte reversal (R188). -/
theorem payloadWord_false_cons_leBytes (d : Byte) (hval : val.toNat < 2 ^ (8 * n)) :
    (payloadWord false (d :: leBytes val n) 1 n).toNat = bswap n val.toNat := by
  rw [← leValue_cons_leBytes d hval, bswap_leValue]
  exact payloadWord_false_toNat (admitted_cons_leBytes d val n)

/-- Widening keeps the number where it adds zeros or no bits at all (R152). -/
theorem widen_toNat (p : BitVec (8 * n)) (hn : n ≤ 8) (h : ext = .zero ∨ n = 8) : (widen ext p).toNat = p.toNat := by
  obtain rfl | rfl := h
  · exact widen_zero_toNat p (by omega)
  · cases ext with
    | zero => exact widen_zero_toNat p le_rfl
    | sign => exact congrArg BitVec.toNat (BitVec.signExtend_eq p)

theorem byteAt_in_stream (before out after : ByteSeq) {i : Nat} (h : i < out.length) :
    byteAt (before ++ out ++ after) (before.length + i) = byteAt out i := by
  rw [byteAt, List.append_assoc, List.getD_append_right _ _ _ _ (Nat.le_add_right _ _), Nat.add_sub_cancel_left,
    List.getD_append _ _ _ _ h, byteAt]

/-- A VarInt that is a whole sequence decodes the same at its place in any stream (R73, R101). -/
theorem decodeVarIntCommon_in_stream {rev : Bool} {v : Word64} {out : ByteSeq} (before after : ByteSeq)
    (h : decodeVarIntCommon ext rev out 0 = .ok (.varInt v out.length)) :
    decodeVarIntCommon ext rev (before ++ out ++ after) before.length = .ok (.varInt v out.length) := by
  refine decodeVarIntCommon_ok_congr ⟨by omega, by simp⟩ (fun i hi => ?_) h
  rw [Int.toNat_natCast, byteAt_in_stream before out after hi, Int.toNat_zero, Nat.zero_add]

/-- R187: the reversed decode of the output alone gives back value and size. -/
theorem encodeVarIntBytes_roundTrip (h : InRange size val.toNat) (hext : ext = .zero ∨ size = 1 ∨ size = 9) :
    ∃ out : ByteSeq, encodeVarIntBytes val size = .ok out ∧ (out.length : Int) = size ∧
      decodeVarIntCommon ext true out 0 = .ok (.varInt val out.length) := by
  obtain ⟨rfl, hval, henc⟩ | ⟨d, n, hdn, rfl, hval, henc⟩ := encodeVarIntBytes_of_inRange h
  · exact ⟨_, henc, rfl, decodeVarIntCommon_leBytes_one ext true hval⟩
  · have hlen : (d :: leBytes val n).length = 1 + n := by simp [Nat.add_comm]
    obtain ⟨hpos, hn⟩ := hdn.width_bounds
    have hv : widen ext (payloadWord true (d :: leBytes val n) 1 n) = val := by
      apply BitVec.eq_of_toNat_eq
      rw [widen_toNat _ hn (hext.imp_right fun _ => by omega), payloadWord_true_cons_leBytes d hval]
    refine ⟨_, henc, length_of_encodeVarIntBytes_ok henc, ?_⟩
    rw [decodeVarIntCommon_cons_leBytes ext true val hdn, hv, hlen]

/-- Settles O21: the output alone decodes to the value, and its surroundings do not matter. -/
theorem roundTripInAnyStream : Obligations.RoundTripInAnyStream := by
  unfold Obligations.RoundTripInAnyStream
  intro before after val size s h hext
  obtain ⟨out, henc, rfl, hdec⟩ := encodeVarIntBytes_roundTrip h hext
  exact ⟨out, exec_encodeVarInt_of_ok henc, rfl, exec_of_outcome_ok (decodeVarIntCommon_in_stream before after hdec)⟩

/-- Settles O22: the other decode takes the same bytes and composes the payload in the opposite order. -/
theorem otherDecoderReversesTheBytes : Obligations.OtherDecoderReversesTheBytes := by
  unfold Obligations.OtherDecoderReversesTheBytes
  intro val size s h hext
  obtain ⟨rfl, hval, henc⟩ | ⟨d, n, hdn, rfl, hval, henc⟩ := encodeVarIntBytes_of_inRange h
  · exact ⟨_, val, exec_encodeVarInt_of_ok henc, exec_of_outcome_ok (decodeVarIntCommon_leBytes_one _ false hval),
      fun _ => rfl, fun hne => absurd rfl hne⟩
  · obtain ⟨hpos, hn⟩ := hdn.width_bounds
    have hsize : (1 + (n : Int)).toNat = 1 + n := by omega
    rw [hsize]
    refine ⟨_, _, exec_encodeVarInt_of_ok henc,
      exec_of_outcome_ok (decodeVarIntCommon_cons_leBytes _ false val hdn), fun hone => by omega, fun _ => ?_⟩
    rw [widen_toNat _ hn (.inl hext), payloadWord_false_cons_leBytes d hval, Nat.add_sub_cancel_left]

end Sys2Proof.Machine
end

section
/-! Errors: when an operation's response is one (R211), what it carries and what it leaves unchanged (R216). -/

namespace Sys2Proof.Machine

variable {seq : ByteSeq} {off : Int} {n : Nat}

theorem Response.ofExcept_eq_error_iff {x : Except ErrorKind Result} {e : ErrorKind} :
    Response.ofExcept x = .error e ↔ x = .error e := by
  cases x <;> simp

/-- An instruction answers with an error exactly when its operation raises that error. -/
theorem exec_eq_error_iff {i : Instr} {s : State} {e : ErrorKind} :
    exec i s = .next (s.answering (.error e)) ↔ outcome s.params.payloadExt i = .error e := by
  refine ⟨fun h => ?_, exec_of_outcome_error⟩
  obtain ⟨_, hanswer⟩ := eq_answering_of_exec h rfl
  exact Response.ofExcept_eq_error_iff.mp hanswer

/-- R63's check read the other way round, as R211 writes it. -/
theorem not_admitted_iff : ¬ Admitted seq off n ↔ off < 0 ∨ off + n > seq.length := by
  unfold Admitted
  omega

theorem fetchBytes_eq_outOfBounds_iff :
    fetchBytes seq off n = .error .outOfBounds ↔ off < 0 ∨ off + n > seq.length := by
  rw [fetchBytes_eq, ← not_admitted_iff]
  split_ifs with h <;> simp [h]

/-- What becomes of a value that was there makes no error and hides none. -/
theorem map_eq_error_iff {α β : Type} {x : Except ErrorKind α} {f : α → β} {e : ErrorKind} :
    x.map f = .error e ↔ x = .error e := by
  cases x <;> simp [Except.map]

theorem readBE_eq_outOfBounds_iff :
    readBE seq off n = .error .outOfBounds ↔ off < 0 ∨ off + n > seq.length := by
  rw [← fetchBytes_eq_outOfBounds_iff, readBE]
  cases fetchBytes seq off n <;> simp

theorem readLE_eq_outOfBounds_iff :
    readLE seq off n = .error .outOfBounds ↔ off < 0 ∨ off + n > seq.length := by
  rw [← fetchBytes_eq_outOfBounds_iff, readLE]
  cases fetchBytes seq off n <;> simp

/-- A decode raises OutOfBounds exactly when the read of one of its stages is not admitted. -/
theorem decodeVarIntCommon_eq_outOfBounds_iff (ext : PayloadExt) (rev : Bool) :
    decodeVarIntCommon ext rev seq off = .error .outOfBounds ↔
      off < 0 ∨ off + 1 > seq.length ∨ off + 1 + payloadWidth (byteAt seq off.toNat) > seq.length := by
  rw [decodeVarIntCommon_eq]
  split_ifs with h
  · obtain ⟨hnonneg, hin⟩ := h
    simp only [false_iff]
    omega
  · have hstages := not_admitted_iff.mp h
    simp only [true_iff]
    omega

/-- Settles O3: each of the eight operations answers what its read or its decode gives. -/
theorem outOfBoundsExactly : Obligations.OutOfBoundsExactly := by
  unfold Obligations.OutOfBoundsExactly
  intro seq off s
  refine ⟨?_, ?_, ?_, ?_, ?_, ?_, ?_, ?_⟩
  · exact exec_eq_error_iff.trans (map_eq_error_iff.trans (readBE_eq_outOfBounds_iff (n := 2)))
  · exact exec_eq_error_iff.trans (map_eq_error_iff.trans (readLE_eq_outOfBounds_iff (n := 2)))
  · exact exec_eq_error_iff.trans (map_eq_error_iff.trans (readBE_eq_outOfBounds_iff (n := 4)))
  · exact exec_eq_error_iff.trans (map_eq_error_iff.trans (readLE_eq_outOfBounds_iff (n := 4)))
  · exact exec_eq_error_iff.trans (map_eq_error_iff.trans (readBE_eq_outOfBounds_iff (n := 8)))
  · exact exec_eq_error_iff.trans (map_eq_error_iff.trans (readLE_eq_outOfBounds_iff (n := 8)))
  · exact exec_eq_error_iff.trans (decodeVarIntCommon_eq_outOfBounds_iff _ false)
  · exact exec_eq_error_iff.trans (decodeVarIntCommon_eq_outOfBounds_iff _ true)

/-- Settles O25: an answer writes the response and nothing else, and an error response has no result field. -/
theorem errorsCarryNoResultAndChangeNothing : Obligations.ErrorsCarryNoResultAndChangeNothing := by
  unfold Obligations.ErrorsCarryNoResultAndChangeNothing
  intro i s t e h hr
  obtain ⟨rfl, _⟩ := eq_answering_of_exec h hr
  obtain ⟨hword, hvval, hvsize, holen, hobytes⟩ := Response.fields_error e
  exact ⟨hword, hvval, hvsize, holen, hobytes, rfl, rfl⟩

end Sys2Proof.Machine
end

section
/-! Liveness (R215, R249): one step a request, so as many steps as there are requests in flight answer them all. -/

namespace Sys2Proof.Machine

variable {s : State} {q : Issued} {rest : List Issued}

/-- What the host of a request receives for it. -/
def Issued.answered (ext : PayloadExt) (q : Issued) : Delivered :=
  ⟨q.host, q.request, answer ext (decode q.request)⟩

/-- The state once every request in flight is answered, oldest first. -/
def State.drained (s : State) : State :=
  { s with waiting := [], delivered := s.delivered ++ s.waiting.map (Issued.answered s.params.payloadExt) }

theorem State.drained_of_waiting_nil (hw : s.waiting = []) : s.drained = s := by
  cases s
  cases hw
  simp [State.drained]

/-- Answering the oldest request first leaves the same to be answered. -/
theorem State.drained_served (hr : s.response = none) (hw : s.waiting = q :: rest) :
    (s.served q rest).drained = s.drained := by
  simp [State.drained, Issued.answered, hr, hw]

/-- As many steps as there are requests in flight drain the unit, by induction on those requests. -/
theorem run_waiting_length (hr : s.response = none) : Sys2Proof.core.run s.waiting.length s = .next s.drained := by
  induction hw : s.waiting generalizing s with
  | nil => rw [State.drained_of_waiting_nil hw, List.length_nil, run_zero]
  | cons q rest ih =>
    rw [List.length_cons, run_succ_of_next _ (step_eq_served hw), ih State.served_response State.served_waiting,
      State.drained_served hr hw]

/-- Settles O46: the run ends in `State.drained`, whose new responses are those of the requests in flight. -/
theorem everyRequestIsAnswered : Obligations.EveryRequestIsAnswered := by
  unfold Obligations.EveryRequestIsAnswered
  intro s hr
  refine ⟨s.drained, run_waiting_length hr, rfl, hr, rfl, s.waiting.map (Issued.answered s.params.payloadExt), rfl, ?_,
    fun d hd => ?_⟩
  · rw [List.map_map]
    exact List.map_id s.waiting
  · obtain ⟨q, _, rfl⟩ := List.mem_map.mp hd
    exact responseAlone_eq s.params q.request

end Sys2Proof.Machine
end

section
/-! Decoding and encoding a request: which operands each operation select uses (R93, R97), and that `decode` and `encode` undo each
other, over integers and over the interface of bounded words (R95, R98, R99). -/

namespace Sys2Proof

variable {op : BitVec 4} {p : Params} {i : Instr}

theorem op_cases_of_le_seven (h : op.toNat ≤ 7) :
    op = 0b0000#4 ∨ op = 0b0001#4 ∨ op = 0b0010#4 ∨ op = 0b0011#4 ∨ op = 0b0100#4 ∨ op = 0b0101#4 ∨ op = 0b0110#4 ∨
      op = 0b0111#4 := by
  revert op
  decide

theorem op_cases_of_nine_le (h : 9 ≤ op.toNat) :
    op = 0b1001#4 ∨ op = 0b1010#4 ∨ op = 0b1011#4 ∨ op = 0b1100#4 ∨ op = 0b1101#4 ∨ op = 0b1110#4 ∨ op = 0b1111#4 := by
  revert op
  decide

/-- OP 0 to 7: a read or a decode, made of SEQ and OFF alone (R93). -/
theorem decode_of_op_le_seven (h : op.toNat ≤ 7) : ∃ mk : ByteSeq → Int → Instr,
    (∀ seq off val size, decode ⟨op, seq, off, val, size⟩ = mk seq off) ∧
      ∀ seq off, (mk seq off).seq? = some seq ∧ (mk seq off).off? = some off ∧ opcode (mk seq off) = op := by
  obtain rfl | rfl | rfl | rfl | rfl | rfl | rfl | rfl := op_cases_of_le_seven h
  · exact ⟨.readShort, decode_op_0000, fun _ _ => ⟨rfl, rfl, rfl⟩⟩
  · exact ⟨.readShortReversed, decode_op_0001, fun _ _ => ⟨rfl, rfl, rfl⟩⟩
  · exact ⟨.readInt, decode_op_0010, fun _ _ => ⟨rfl, rfl, rfl⟩⟩
  · exact ⟨.readIntReversed, decode_op_0011, fun _ _ => ⟨rfl, rfl, rfl⟩⟩
  · exact ⟨.readLong, decode_op_0100, fun _ _ => ⟨rfl, rfl, rfl⟩⟩
  · exact ⟨.readLongReversed, decode_op_0101, fun _ _ => ⟨rfl, rfl, rfl⟩⟩
  · exact ⟨.decodeVarInt, decode_op_0110, fun _ _ => ⟨rfl, rfl, rfl⟩⟩
  · exact ⟨.decodeVarIntReversed, decode_op_0111, fun _ _ => ⟨rfl, rfl, rfl⟩⟩

/-- OP 8: the encode, made of VAL and SIZE alone (R93). -/
theorem decode_of_op_eq_eight (h : op.toNat = 8) (seq : ByteSeq) (off : Int) (val : Word64) (size : Int) :
    decode ⟨op, seq, off, val, size⟩ = .encodeVarInt val size := by
  obtain rfl : op = 0b1000#4 := BitVec.eq_of_toNat_eq h
  exact decode_op_1000 seq off val size

/-- OP 9 to 15: a reserved instruction, made of OP alone, which answers IllegalOp (R93, R96). -/
theorem decode_of_nine_le_op (h : 9 ≤ op.toNat) : ∃ i : Instr, (∀ seq off val size, decode ⟨op, seq, off, val, size⟩ = i) ∧
    i.seq? = none ∧ opcode i = op ∧ ∀ ext, Machine.answer ext i = .error .illegalOp := by
  obtain rfl | rfl | rfl | rfl | rfl | rfl | rfl := op_cases_of_nine_le h
  · exact ⟨_, decode_op_1001, rfl, rfl, fun _ => rfl⟩
  · exact ⟨_, decode_op_1010, rfl, rfl, fun _ => rfl⟩
  · exact ⟨_, decode_op_1011, rfl, rfl, fun _ => rfl⟩
  · exact ⟨_, decode_op_1100, rfl, rfl, fun _ => rfl⟩
  · exact ⟨_, decode_op_1101, rfl, rfl, fun _ => rfl⟩
  · exact ⟨_, decode_op_1110, rfl, rfl, fun _ => rfl⟩
  · exact ⟨_, decode_op_1111, rfl, rfl, fun _ => rfl⟩

/-- The three operand classes of R93, as a range of OP each. -/
theorem op_class (op : BitVec 4) : op.toNat ≤ 7 ∨ op.toNat = 8 ∨ 9 ≤ op.toNat := by
  omega

/-- R97's decoding agrees with R95's map. -/
theorem opcode_decode (q : Request) : opcode (decode q) = q.op := by
  obtain hread | hencode | hreserved := op_class q.op
  · obtain ⟨mk, hdecode, huses⟩ := decode_of_op_le_seven hread
    obtain ⟨_, _, hop⟩ := huses q.seq q.off
    exact (congrArg opcode (hdecode _ _ _ _)).trans hop
  · calc opcode (decode q)
        = opcode (.encodeVarInt q.val q.size) := congrArg opcode (decode_of_op_eq_eight hencode _ _ _ _)
      _ = q.op := BitVec.eq_of_toNat_eq hencode.symm
  · obtain ⟨i, hdecode, _, hop, _⟩ := decode_of_nine_le_op hreserved
    exact (congrArg opcode (hdecode _ _ _ _)).trans hop

theorem encode_op (i : Instr) : (encode i).op = opcode i := by
  cases i <;> rfl

theorem encode_off (i : Instr) : (encode i).off = i.off?.getD 0 := by
  cases i <;> rfl

theorem encode_size (i : Instr) : (encode i).size = i.size?.getD 0 := by
  cases i <;> rfl

/-- The request laid out for an instruction decodes to it; a reserved instruction carries the OP bits its row leaves free. -/
theorem decode_encode (i : Instr) : decode (encode i) = i := by
  cases i with
  | readShort seq off => exact decode_op_0000 _ _ _ _
  | readShortReversed seq off => exact decode_op_0001 _ _ _ _
  | readInt seq off => exact decode_op_0010 _ _ _ _
  | readIntReversed seq off => exact decode_op_0011 _ _ _ _
  | readLong seq off => exact decode_op_0100 _ _ _ _
  | readLongReversed seq off => exact decode_op_0101 _ _ _ _
  | decodeVarInt seq off => exact decode_op_0110 _ _ _ _
  | decodeVarIntReversed seq off => exact decode_op_0111 _ _ _ _
  | encodeVarInt val size => exact decode_op_1000 _ _ _ _
  | reservedReversedEncoder => exact decode_op_1001 _ _ _ _
  | reserved101 r =>
    revert r
    decide
  | reserved11 x =>
    revert x
    decide

/-- Zero, the value of an operand field no operation uses, fits every width, none included. -/
theorem fitsSigned_zero (n : Nat) : fitsSigned n 0 = true := by
  simp [fitsSigned]

/-- A value that fits a two's complement word is read back from it (R14). -/
theorem toInt_ofInt_of_fitsSigned {n : Nat} {v : Int} (h : fitsSigned n v = true) : (BitVec.ofInt n v).toInt = v := by
  simp only [fitsSigned, Bool.and_eq_true, decide_eq_true_eq] at h
  obtain ⟨hlo, hhi⟩ := h
  rw [BitVec.toInt_ofInt]
  exact Int.bmod_eq_of_le_mul_two (by push_cast; omega) (by push_cast; omega)

/-- A request whose offset and size fit the interface of bounded words crosses it unchanged (R98, R99). -/
theorem toRequest_toWire {q : Request} (hoff : fitsSigned p.offsetBits q.off = true)
    (hsize : fitsSigned p.sizeBits q.size = true) : (q.toWire p).toRequest = q := by
  simp only [Request.toWire, WireRequest.toRequest, toInt_ofInt_of_fitsSigned hoff, toInt_ofInt_of_fitsSigned hsize]

theorem fitsSigned_getD {n : Nat} {v : Option Int} (h : (v.all fun x => fitsSigned n x) = true) :
    fitsSigned n (v.getD 0) = true := by
  cases v with
  | none => exact fitsSigned_zero n
  | some x => exact h

/-- What the interface carries of a well-formed instruction is the request laid out for it. -/
theorem toRequest_encodeWire (hoff : CarriesOff p i = true) (hsize : CarriesSize p i = true) :
    (encodeWire p i).toRequest = encode i :=
  toRequest_toWire (encode_off i ▸ fitsSigned_getD hoff) (encode_size i ▸ fitsSigned_getD hsize)

/-- Settles O31: the words carry the request laid out for the instruction, which decodes to it and is accepted. -/
theorem wireRoundTrip : Obligations.WireRoundTrip := by
  unfold Obligations.WireRoundTrip
  intro p i h
  simp only [WellFormed, Bool.and_eq_true] at h
  obtain ⟨⟨haccepted, hoff⟩, hsize⟩ := h
  rw [acceptWire, toRequest_encodeWire hoff hsize, accept, decode_encode, if_pos haccepted]

/-- Settles O32: `encode` lays out the OP of the map, and decodes back. -/
theorem encodeKeepsTheOperation : Obligations.EncodeKeepsTheOperation := by
  unfold Obligations.EncodeKeepsTheOperation
  exact fun q => ⟨(encode_op _).trans (opcode_decode q), decode_encode _⟩

/-- The map's rows overlap nowhere (R95), for every instruction at once. -/
theorem owns_row_opcode (i : Instr) : Laws.OpMap.Owns i.row (opcode i) := by
  cases i with
  | readShort seq off => exact Laws.OpMap.readShort seq off
  | readShortReversed seq off => exact Laws.OpMap.readShortReversed seq off
  | readInt seq off => exact Laws.OpMap.readInt seq off
  | readIntReversed seq off => exact Laws.OpMap.readIntReversed seq off
  | readLong seq off => exact Laws.OpMap.readLong seq off
  | readLongReversed seq off => exact Laws.OpMap.readLongReversed seq off
  | decodeVarInt seq off => exact Laws.OpMap.decodeVarInt seq off
  | decodeVarIntReversed seq off => exact Laws.OpMap.decodeVarIntReversed seq off
  | encodeVarInt val size => exact Laws.OpMap.encodeVarInt val size
  | reservedReversedEncoder => exact Laws.OpMap.reservedReversedEncoder
  | reserved101 r => exact Laws.OpMap.reserved101 r
  | reserved11 x => exact Laws.OpMap.reserved11 x

/-- Settles O30: OP is the opcode of what the request decodes to, and one row alone covers that. -/
theorem everyOpLiesInTheRowItDecodesTo : Obligations.EveryOpLiesInTheRowItDecodesTo := by
  unfold Obligations.EveryOpLiesInTheRowItDecodesTo
  intro q
  obtain ⟨hmem, hcovers, hunique⟩ := owns_row_opcode (decode q)
  rw [opcode_decode] at hcovers hunique
  exact ⟨hmem, fun row hrow => ⟨hunique row hrow, fun heq => heq ▸ hcovers⟩⟩

/-- Settles O29, by the decoding of each of the five selects. -/
theorem sampleRequestsDecode : Obligations.SampleRequestsDecode := by
  unfold Obligations.SampleRequestsDecode
  exact ⟨decode_op_0000 _ _ _ _, decode_op_0101 _ _ _ _, decode_op_0110 _ _ _ _, decode_op_1000 _ _ _ _,
    decode_op_1001 _ _ _ _⟩

end Sys2Proof
end

section
/-! What follows from the operands an operation uses: ignored ones change no response (R93), a reserved request is answered from OP
alone (R96, R213), a negative offset is out of bounds (R63, R98), and P_MAX_LEN sees the sequence alone (R13). -/

namespace Sys2Proof.Machine

variable {i : Instr} {p : Params} {q : Request}

/-- Requests that decode the same get the same response alone. -/
theorem responseAlone_congr {q' : Request} (p : Params) (h : decode q = decode q') :
    responseAlone p q = responseAlone p q' := by
  rw [responseAlone_eq, responseAlone_eq, h]

/-- Settles O33: in each operand class the fields that change are none that `decode` uses. -/
theorem ignoredOperandsHaveNoEffect : Obligations.IgnoredOperandsHaveNoEffect := by
  unfold Obligations.IgnoredOperandsHaveNoEffect
  intro q seq off val size p
  refine ⟨fun h => responseAlone_congr p ?_, fun h => responseAlone_congr p ?_, fun h => responseAlone_congr p ?_⟩
  · obtain ⟨mk, hdecode, _⟩ := decode_of_op_le_seven h
    rw [hdecode, hdecode]
  · exact (decode_of_op_eq_eight h _ _ _ _).trans (decode_of_op_eq_eight h _ _ _ _).symm
  · obtain ⟨i, hdecode, _⟩ := decode_of_nine_le_op h
    rw [hdecode, hdecode]

/-- Settles O24: the step answers what the request decodes to, a reserved instruction. -/
theorem reservedRequestsIgnoreTheirOperands : Obligations.ReservedRequestsIgnoreTheirOperands := by
  unfold Obligations.ReservedRequestsIgnoreTheirOperands
  intro s h q rest hw hop
  obtain ⟨i, hdecode, _, _, hanswer⟩ := decode_of_nine_le_op hop
  rw [step_eq_served hw, State.served, hdecode, hanswer]

/-- Every operation that uses an offset checks it before it reads a byte (R63). -/
theorem outcome_of_off_neg {off : Int} (ext : PayloadExt) (h : i.off? = some off) (hneg : off < 0) :
    outcome ext i = .error .outOfBounds := by
  cases i with
  | readShort | readInt | readLong =>
    cases h
    exact map_eq_error_iff.mpr (readBE_eq_outOfBounds_iff.mpr (.inl hneg))
  | readShortReversed | readIntReversed | readLongReversed =>
    cases h
    exact map_eq_error_iff.mpr (readLE_eq_outOfBounds_iff.mpr (.inl hneg))
  | decodeVarInt | decodeVarIntReversed =>
    cases h
    exact (decodeVarIntCommon_eq_outOfBounds_iff ext _).mpr (.inl hneg)
  | encodeVarInt | reservedReversedEncoder | reserved101 | reserved11 => cases h

/-- Settles O34: two's complement makes the offset negative, and no read or decode admits a negative offset. -/
theorem busOffsetsWithTheTopBitSetAreNegative : Obligations.BusOffsetsWithTheTopBitSetAreNegative := by
  unfold Obligations.BusOffsetsWithTheTopBitSetAreNegative
  intro p w hmsb hop
  have hneg : w.toRequest.off < 0 := BitVec.toInt_neg_of_msb_true hmsb
  obtain ⟨mk, hdecode, huses⟩ := decode_of_op_le_seven hop
  obtain ⟨_, hoff, _⟩ := huses w.toRequest.seq w.toRequest.off
  refine ⟨hneg, ?_⟩
  rw [responseAlone_eq, show decode w.toRequest = mk w.toRequest.seq w.toRequest.off from hdecode _ _ _ _, answer,
    outcome_of_off_neg p.payloadExt hoff hneg, Response.ofExcept_error]

theorem accepted_of_maxLen_none (h : p.maxLen = none) : Accepted p i = true := by
  cases hseq : i.seq? <;> simp [Accepted, Params.acceptsLength, hseq, h]

theorem accepted_of_seq?_none (h : i.seq? = none) : Accepted p i = true := by
  rw [Accepted, h, Option.all_none]

theorem accepted_iff_of_seq?_some {seq : ByteSeq} {m : Nat} (h : i.seq? = some seq) (hm : p.maxLen = some m) :
    Accepted p i = true ↔ seq.length ≤ m := by
  simp [Accepted, Params.acceptsLength, h, hm]

/-- OP 8 to 15: no sequence is used (R93). -/
theorem seq?_decode_of_eight_le_op (h : 8 ≤ q.op.toNat) : (decode q).seq? = none := by
  obtain heq | hlt := h.eq_or_lt
  · exact congrArg Instr.seq? (decode_of_op_eq_eight heq.symm _ _ _ _)
  · obtain ⟨i, hdecode, hseq, _, _⟩ := decode_of_nine_le_op hlt
    exact (congrArg Instr.seq? (hdecode _ _ _ _)).trans hseq

/-- Settles O35: a request joins where it is accepted, and only the length of a sequence in use can keep it out. -/
theorem lengthLimitBoundsTheSequenceAlone : Obligations.LengthLimitBoundsTheSequenceAlone := by
  unfold Obligations.LengthLimitBoundsTheSequenceAlone
  intro s h q
  simp only [issue_eq]
  refine ⟨fun hnone => if_pos (accepted_of_maxLen_none hnone), fun m hm hop => ?_,
    fun hop => if_pos (accepted_of_seq?_none (seq?_decode_of_eight_le_op hop))⟩
  obtain ⟨mk, hdecode, huses⟩ := decode_of_op_le_seven hop
  have hseq : (decode q).seq? = some q.seq := (congrArg Instr.seq? (hdecode _ _ _ _)).trans (huses _ _).left
  exact if_congr (accepted_iff_of_seq?_some hseq hm) rfl rfl

end Sys2Proof.Machine
end

section
/-! Widening and low bits: the two places where a value's width differs from its bytes' (R152, R180). -/

namespace Sys2Proof.Machine

/-- `Widen` is the payload's reading modulo 2^64 (R152): as a natural number under `zero`, as two's complement under `sign`. -/
theorem widen_eq_ofInt {n : Nat} (ext : PayloadExt) (p : BitVec (8 * n)) (hn : 0 < n) :
    widen ext p = BitVec.ofInt 64 (payloadReading ext n p.toNat) := by
  cases ext with
  | zero => rw [widen, payloadReading, BitVec.ofInt_natCast, BitVec.ofNat_toNat]
  | sign =>
    have hhalf : 2 ^ (8 * n) = 2 * 2 ^ (8 * n - 1) := by
      rw [← Nat.pow_succ', Nat.succ_eq_add_one, Nat.sub_add_cancel (by omega)]
    have htop : 2 * p.toNat < 2 ^ (8 * n) ↔ p.toNat < 2 ^ (8 * n - 1) := by omega
    rw [widen, BitVec.signExtend, BitVec.toInt_eq_toNat_cond, payloadReading]
    simp only [htop]
    norm_cast

/-- Settles O9: the payload word stands for R64's or R65's sum, and widening reads it by PAYLOAD_EXT. -/
theorem payloadWidening : Obligations.PayloadWidening := by
  unfold Obligations.PayloadWidening
  rintro seq off s _ n hdn h rfl
  obtain ⟨hd, hwidth, _⟩ := payloadWidth_of_discriminant hdn
  have hn : 0 < n := by omega
  rw [← payloadWord_false_toNat h, ← payloadWord_true_toNat h, ← widen_eq_ofInt _ _ hn, ← widen_eq_ofInt _ _ hn]
  exact ⟨exec_of_outcome_ok (decodeVarIntCommon_of_payload _ false hd hwidth h),
    exec_of_outcome_ok (decodeVarIntCommon_of_payload _ true hd hwidth h)⟩

/-- Settles O16: the bytes after the discriminant are `leBytes`, which stands for the low bits of any value. -/
theorem wideValuesAreWrittenAsTheirLowBits : Obligations.WideValuesAreWrittenAsTheirLowBits := by
  unfold Obligations.WideValuesAreWrittenAsTheirLowBits
  exact fun val s => ⟨⟨leBytes val 2, exec_encodeVarInt_of_ok rfl, leBytes_length val 2, leValue_leBytes val 2⟩,
    ⟨leBytes val 4, exec_encodeVarInt_of_ok rfl, leBytes_length val 4, leValue_leBytes val 4⟩⟩

end Sys2Proof.Machine
end

section
/-! What kind of response each operation gives: one kind of error (R217), and one shape of result with its bus fields (R94). -/

namespace Sys2Proof.Machine

variable {seq : ByteSeq} {off : Int} {n : Nat} {i : Instr} {e : ErrorKind} {r : Result} {ext : PayloadExt}

theorem eq_outOfBounds_of_readBE (h : readBE seq off n = .error e) : e = .outOfBounds := by
  by_cases hadm : Admitted seq off n
  · rw [readBE_of_admitted hadm] at h
    cases h
  · rw [readBE_of_not_admitted hadm] at h
    cases h
    rfl

theorem eq_outOfBounds_of_readLE (h : readLE seq off n = .error e) : e = .outOfBounds := by
  by_cases hadm : Admitted seq off n
  · rw [readLE_of_admitted hadm] at h
    cases h
  · rw [readLE_of_not_admitted hadm] at h
    cases h
    rfl

theorem eq_outOfBounds_of_decode {rev : Bool} (h : decodeVarIntCommon ext rev seq off = .error e) : e = .outOfBounds := by
  rw [decodeVarIntCommon_eq] at h
  split_ifs at h
  cases h
  rfl

/-- R217's one kind per operation. -/
theorem eq_errorKindOf_of_outcome (h : outcome ext i = .error e) : e = errorKindOf i := by
  cases i with
  | readShort | readInt | readLong =>
    have hread := map_eq_error_iff.mp h
    exact eq_outOfBounds_of_readBE hread
  | readShortReversed | readIntReversed | readLongReversed =>
    have hread := map_eq_error_iff.mp h
    exact eq_outOfBounds_of_readLE hread
  | decodeVarInt | decodeVarIntReversed => exact eq_outOfBounds_of_decode h
  | encodeVarInt => exact (encodeVarIntBytes_eq_error_iff.mp (map_eq_error_iff.mp h)).left
  | reservedReversedEncoder | reserved101 | reserved11 =>
    cases h
    rfl

/-- Settles O26: the error in the response is the one the operation raised. -/
theorem eachOperationRaisesItsOwnError : Obligations.EachOperationRaisesItsOwnError := by
  unfold Obligations.EachOperationRaisesItsOwnError
  intro i s t e h hr
  obtain ⟨_, hanswer⟩ := eq_answering_of_exec h hr
  exact eq_errorKindOf_of_outcome (Response.ofExcept_eq_error_iff.mp hanswer)

theorem Response.ofExcept_eq_ok_iff {x : Except ErrorKind Result} : Response.ofExcept x = .ok r ↔ x = .ok r := by
  cases x <;> simp

theorem map_eq_ok_iff {α β : Type} {x : Except ErrorKind α} {f : α → β} {y : β} :
    x.map f = .ok y ↔ ∃ a, x = .ok a ∧ f a = y := by
  cases x <;> simp [Except.map]

/-- A successful decode's result: a value, and a size that VSIZE's four bits hold (R153). -/
theorem varInt_of_decode_ok {rev : Bool} (h : decodeVarIntCommon ext rev seq off = .ok r) :
    ∃ v k, r = .varInt v k ∧ k < 16 := by
  rw [decodeVarIntCommon_eq] at h
  split_ifs at h
  cases h
  have hsize := one_add_payloadWidth_cases (byteAt seq off.toNat)
  exact ⟨_, _, rfl, by omega⟩

theorem length_lt_of_encodeVarIntBytes_ok {val : Word64} {size : Int} {out : ByteSeq}
    (h : encodeVarIntBytes val size = .ok out) : out.length < 16 := by
  have hlen := length_of_encodeVarIntBytes_ok h
  have hsize := size_of_encodeVarIntBytes_ok h
  omega

/-- Settles O28: an OK response holds the operation's result, whose shape the operation fixes and the bus fields show. -/
theorem busFieldsFollowTheOperation : Obligations.BusFieldsFollowTheOperation := by
  unfold Obligations.BusFieldsFollowTheOperation
  intro i s t r h hr hstatus
  obtain ⟨_, hanswer⟩ := eq_answering_of_exec h hr
  obtain ⟨x, rfl⟩ := (Response.status_eq_ok_iff r).mp hstatus
  have hout : outcome s.params.payloadExt i = .ok x := Response.ofExcept_eq_ok_iff.mp hanswer
  cases i with
  | readShort | readShortReversed =>
    obtain ⟨w, _, rfl⟩ := map_eq_ok_iff.mp hout
    exact ⟨⟨w, w.setWidth 64, rfl, rfl, BitVec.toNat_setWidth_of_le (by decide)⟩, rfl, rfl, rfl, rfl⟩
  | readInt | readIntReversed =>
    obtain ⟨w, _, rfl⟩ := map_eq_ok_iff.mp hout
    exact ⟨⟨w, w.setWidth 64, rfl, rfl, BitVec.toNat_setWidth_of_le (by decide)⟩, rfl, rfl, rfl, rfl⟩
  | readLong | readLongReversed =>
    obtain ⟨w, _, rfl⟩ := map_eq_ok_iff.mp hout
    exact ⟨⟨w, w, rfl, rfl, rfl⟩, rfl, rfl, rfl, rfl⟩
  | decodeVarInt | decodeVarIntReversed =>
    obtain ⟨v, k, rfl, hk⟩ := varInt_of_decode_ok hout
    exact ⟨⟨v, k, BitVec.ofNat 4 k, rfl, rfl, rfl, Nat.mod_eq_of_lt hk⟩, rfl, rfl, rfl⟩
  | encodeVarInt =>
    obtain ⟨out, henc, rfl⟩ := map_eq_ok_iff.mp hout
    exact ⟨⟨out, BitVec.ofNat 4 out.length, rfl, rfl, rfl, Nat.mod_eq_of_lt (length_lt_of_encodeVarIntBytes_ok henc)⟩,
      rfl, rfl, rfl⟩
  | reservedReversedEncoder | reserved101 | reserved11 => cases hout

/-- Settles O23, by the one way an error is taken. -/
theorem reservedOpsAnswerIllegalOp : Obligations.ReservedOpsAnswerIllegalOp := by
  unfold Obligations.ReservedOpsAnswerIllegalOp
  exact fun s _ _ => ⟨raise_eq s .illegalOp, raise_eq s .illegalOp, raise_eq s .illegalOp⟩

/-- Settles O27: D6's codes, as `Response.status` and `ErrorKind.status` give them. -/
theorem statusCodes : Obligations.StatusCodes := by
  unfold Obligations.StatusCodes
  exact ⟨Response.status_ok, rfl, rfl, rfl⟩

end Sys2Proof.Machine
end

section
/-! Runs of the machine and moves of the outside world: a step always answers a next state (R221), reset leaves nothing to answer
(R240, R241), and every move keeps `Inv`. -/

namespace Sys2Proof.Machine

variable {s : State}

/-- Settles O38: the state the instruction answers is the one without the request, with the response formed. -/
theorem stepRunsTheDecodedRequest : Obligations.StepRunsTheDecodedRequest := by
  unfold Obligations.StepRunsTheDecodedRequest
  exact fun s => ⟨step_of_waiting_nil, fun q rest hw => ⟨_, _, exec_eq_answering _ _, rfl, step_eq_served hw⟩⟩

theorem exists_step_eq_next (s : State) : ∃ t, step s = .next t := by
  cases hw : s.waiting with
  | nil => exact ⟨s, step_of_waiting_nil hw⟩
  | cons q rest => exact ⟨s.served q rest, step_eq_served hw⟩

/-- Settles O39, by induction on the number of steps. -/
theorem theUnitNeverStops : Obligations.TheUnitNeverStops := by
  unfold Obligations.TheUnitNeverStops NeverStops
  intro s k
  induction k generalizing s with
  | zero => exact ⟨s, run_zero s⟩
  | succ k ih =>
    obtain ⟨t, hstep⟩ := exists_step_eq_next s
    rw [run_succ_of_next k hstep]
    exact ih t

/-- With no request in flight the unit idles, however long. -/
theorem run_of_waiting_nil (hw : s.waiting = []) (k : Nat) : Sys2Proof.core.run k s = .next s := by
  induction k with
  | zero => exact run_zero s
  | succ k ih => rw [run_succ_of_next k (step_of_waiting_nil hw), ih]

/-- Settles O41: after reset nothing is in flight, so the unit idles in that state. -/
theorem resetCutsRequestsOff : Obligations.ResetCutsRequestsOff := by
  unfold Obligations.ResetCutsRequestsOff
  exact fun s k => ⟨s.assertReset, run_of_waiting_nil s.assertReset_waiting k, s.assertReset_delivered,
    s.assertReset_waiting, s.assertReset_params⟩

/-- Settles O40: the reset state holds R13's defaults and nothing else (R240). -/
theorem resetLeavesNothingInFlight : Obligations.ResetLeavesNothingInFlight := by
  unfold Obligations.ResetLeavesNothingInFlight
  exact ⟨State.reset_waiting, State.reset_response, State.reset_delivered, rfl, rfl, rfl, rfl⟩

/-- Settles O42: at reset no request is in flight and no host holds a response. -/
theorem resetMeetsTheInvariants : Obligations.ResetMeetsTheInvariants := by
  unfold Obligations.ResetMeetsTheInvariants Inv AnsweredAsAlone
  exact ⟨⟨fun _ hq => (nomatch hq), rfl, fun _ hd => (nomatch hd)⟩, rfl, fun _ hd => (nomatch hd)⟩

/-- A request the unit accepts may join those in flight. -/
theorem Inv.append {q : Issued} (h : Inv s) (hacc : Accepted s.params (decode q.request) = true) :
    Inv { s with waiting := s.waiting ++ [q] } := by
  obtain ⟨haccepted, hresponse, hlegal⟩ := h
  refine ⟨fun x hx => ?_, hresponse, hlegal⟩
  obtain hold | hnew := List.mem_append.mp hx
  · exact haccepted x hold
  · rwa [List.mem_singleton.mp hnew]

theorem Inv.choose (h : Inv s) (k : Nat) : Inv (s.choose k) := by
  obtain ⟨haccepted, hresponse, hlegal⟩ := h
  refine ⟨fun x hx => ?_, by rwa [State.choose_response], by rwa [State.choose_delivered]⟩
  rw [State.choose_params]
  exact haccepted x ((s.choose_waiting_perm k).mem_iff.mp hx)

theorem Inv.assertReset (h : Inv s) : Inv s.assertReset := by
  obtain ⟨_, _, hlegal⟩ := h
  exact ⟨fun _ hx => (nomatch hx), rfl, hlegal⟩

/-- Settles O44, move by move; serving a request is a step, by O43. -/
theorem everyMoveKeepsTheInvariant : Obligations.EveryMoveKeepsTheInvariant := by
  unfold Obligations.EveryMoveKeepsTheInvariant
  intro e s t hInv h
  cases e with
  | issue host q =>
    rw [react, issue_eq] at h
    split_ifs at h with hacc
    · cases h
      exact hInv.append hacc
    · cases h
      exact hInv
  | choose k =>
    cases h
    exact hInv.choose k
  | serve => exact stepKeepsTheInvariant s t hInv h
  | reset =>
    cases h
    exact hInv.assertReset

end Sys2Proof.Machine
end
